-- ==== Sys2Proof/Word.lean ====
section
/-! DEFINITION. The word types of the DCF77 CORE (00_scope.md R7, R9; 30_encoding.md R52). -/

namespace Sys2Proof

/-- A request word: `op = w[35:32]`, `payload = w[31:0]` (R52). -/
abbrev ReqWord := BitVec 36

/-- A millisecond clock reading or difference, 32 bits, modulo 2^32 (R7 `W_T`). -/
abbrev Ms := BitVec 32

/-- An epoch-seconds value, 32 bits, modulo 2^32 (R7 `W_E`). -/
abbrev Epoch := BitVec 32

/-- The number of a frame-buffer slot; six bits, so no slot outside 0..63 can be named (R38). -/
abbrev Slot := BitVec 6

/-- The frame buffer, slot `i` being bit `i` (R27, R38). -/
abbrev Frame := BitVec 64

/-- `popcount(v)`, the number of 1 bits of `v` (R10). -/
def popcount {n : Nat} (v : BitVec n) : Nat :=
  (List.range n).countP fun i => v.getLsbD i

/-- `xor_reduce(v)` is `popcount(v)` mod 2 (R10). -/
def xorReduce {n : Nat} (v : BitVec n) : Bool :=
  popcount v % 2 == 1

end Sys2Proof
end

