-- ==== Sys2Proof/Syntax.lean ====
section
/-! DEFINITION. The requests of the block (30_encoding.md R55, one constructor per row of opcode_table.json), the reasons
for an error response (60_exceptions.md R111), the names of the READ map (44_host_access.md R106) and the lines of the
textual form (30_encoding.md R60, R61). -/

namespace Sys2Proof

/-- The seven requests (R55), with their operands (R59). -/
inductive Instr where
  /-- `NOP` (R108). -/
  | nop
  /-- `POLL` (R70). -/
  | poll
  /-- `EDGE_OFF now`: pulse start (R67). -/
  | edgeOff (now : Ms)
  /-- `EDGE_ON now`: pulse end (R68). -/
  | edgeOn (now : Ms)
  /-- `READ index` (R107). -/
  | read (index : BitVec 8)
  /-- `B2D v` (R98). -/
  | b2d (v : BitVec 8)
  /-- `D2B v` (R99). -/
  | d2b (v : BitVec 8)
  deriving DecidableEq, Repr

/-- The three reasons of `raise ERR(reason)` (R111); they name the reason in the model and are not visible on the port. -/
inductive ErrReason where
  /-- Code 1, `illegal_word`: a reserved operation code 0x7..0xF (R58). -/
  | illegalWord
  /-- Code 2, `nonzero_sbz`: a must-be-zero payload bit is 1 (R57). -/
  | nonzeroSbz
  /-- Code 3, `reserved_register`: READ with index 0x13..0xFF (R107). -/
  | reservedRegister
  deriving DecidableEq, Repr

/-- The names of the READ register map, in the order of their numbers 0x00..0x12 (R106). -/
inductive RegName where
  | ctr | bufLo | bufHi | pulseStart | lastPulseStart | som | thisBit | status | perr
  | minBcd | hourBcd | dayBcd | monthBcd | yearBcd | flags | civil | localTs | regionalTs | utcTs
  deriving DecidableEq, Repr

/-- One line of the textual form: the seven requests with numbers as written (R60), and the two pseudo-requests (R61). -/
inductive AsmLine where
  | nop
  | poll
  | edgeOff (t : Nat)
  | edgeOn (t : Nat)
  | read (index : Nat)
  | readName (r : RegName)
  | b2d (v : Nat)
  | d2b (v : Nat)
  /-- `PULSE <t>, <d>` (R61). -/
  | pulse (t d : Nat)
  /-- `BIT <t>, <b>` (R61). -/
  | bit (t b : Nat)
  deriving DecidableEq, Repr

end Sys2Proof
end

