-- ==== Sys2Proof/WellFormed.lean ====
section
/-! DEFINITION. Well-formed terms. A request carries operands of exactly the width the encoding gives them, so every term
of `Instr` is well formed; the ranges are checked where numbers are written, on the lines of the textual form (R60). -/

namespace Sys2Proof

/-- A number that fits the 32-bit operand of format T (R60: "below 2^32"). -/
abbrev fitsTime (n : Nat) : Bool := decide (n < 2 ^ 32)

/-- A number that fits the 8-bit operand of format B (R60: "below 256"). -/
abbrev fitsByte (n : Nat) : Bool := decide (n < 256)

/-- Every request term spells a request: `now` is 32 bits, `index` and `v` are 8 bits, and no value of them is refused by
the decoder (R59; a READ of a reserved number is a request, answered with an error response, R107). -/
def Instr.wellFormed (i : Instr) : Bool :=
  match i with
  | .nop => true
  | .poll => true
  | .edgeOff _ => true
  | .edgeOn _ => true
  | .read _ => true
  | .b2d _ => true
  | .d2b _ => true

/-- The range checks of the assembler: "The assembler refuses an operand out of range" (R60); `b` in {0, 1} (R61). The
range of `<d>` of PULSE is assumption 7. -/
def AsmLine.wellFormed (l : AsmLine) : Bool :=
  match l with
  | .nop => true
  | .poll => true
  | .edgeOff t => fitsTime t
  | .edgeOn t => fitsTime t
  | .read n => fitsByte n
  | .readName _ => true
  | .b2d v => fitsByte v
  | .d2b v => fitsByte v
  | .pulse t d => fitsTime t && fitsTime d
  | .bit t b => fitsTime t && decide (b < 2)

end Sys2Proof
end

