-- ==== Sys2Proof/Decode.lean ====
section
/-! DEFINITION. The decoder of 30_encoding.md R56, total on all 2^36 words, rejecting by name; the encoder, written from
the same tables (R53, R55); and the decoder as the host's table numbers words. -/

namespace Sys2Proof

/-- `op = w[35:32]` (R52). -/
def opField (w : ReqWord) : BitVec 4 := w.extractLsb' 32 4

/-- `payload = w[31:0]` (R52). -/
def payload (w : ReqWord) : BitVec 32 := w.extractLsb' 0 32

/-- The time operand of format T, `now = payload[31:0]` (R53, R59). -/
def timeOperand (w : ReqWord) : Ms := payload w

/-- The byte operand of format B, `payload[7:0]` (R53, R59). -/
def byteOperand (w : ReqWord) : BitVec 8 := (payload w).extractLsb' 0 8

/-- Format Z's must-be-zero bits, the whole payload, are 0 (R53). -/
def sbzClearZ (w : ReqWord) : Bool := payload w == 0#32

/-- Format B's must-be-zero bits, `payload[31:8]`, are 0 (R53). -/
def sbzClearB (w : ReqWord) : Bool := (payload w).extractLsb' 8 24 == 0#24

/-- A word of format Z or B is refused when a must-be-zero bit is 1 (R57). -/
def orNonzeroSbz (clear : Bool) (i : Instr) : Except ErrReason Instr :=
  if clear then .ok i else .error .nonzeroSbz

/-- The decoder (R56): an operation code 0x7..0xF is reserved (R58). -/
def decode (w : ReqWord) : Except ErrReason Instr :=
  match (opField w).toNat with
  | 0x0 => orNonzeroSbz (sbzClearZ w) .nop
  | 0x1 => orNonzeroSbz (sbzClearZ w) .poll
  | 0x2 => .ok (.edgeOff (timeOperand w))
  | 0x3 => .ok (.edgeOn (timeOperand w))
  | 0x4 => orNonzeroSbz (sbzClearB w) (.read (byteOperand w))
  | 0x5 => orNonzeroSbz (sbzClearB w) (.b2d (byteOperand w))
  | 0x6 => orNonzeroSbz (sbzClearB w) (.d2b (byteOperand w))
  | _ => .error .illegalWord

/-- The decoder on a word numbered as opcode_table.json numbers it. `nbits` is 40 for the table's 36-bit rows; a word
with a bit at 36 or above has no place on the 36-bit port and is refused. -/
def decodeTableWord (nbits w : Nat) : Option Instr :=
  if w % 2 ^ nbits < 2 ^ 36 then
    match decode (BitVec.ofNat 36 (w % 2 ^ nbits)) with
    | .ok i => some i
    | .error _ => none
  else none

/-- Format T (R53): the operation code over a 32-bit time. -/
def formatT (op : BitVec 4) (t : Ms) : ReqWord := op ++ t

/-- Format B (R53): the operation code over 24 zero bits and a byte. -/
def formatB (op : BitVec 4) (v : BitVec 8) : ReqWord := op ++ (0#24 ++ v)

/-- Format Z (R53): the operation code over a zero payload. -/
def formatZ (op : BitVec 4) : ReqWord := op ++ 0#32

/-- The word of each request (R53, R55). -/
def encode (i : Instr) : ReqWord :=
  match i with
  | .nop => formatZ 0x0#4
  | .poll => formatZ 0x1#4
  | .edgeOff now => formatT 0x2#4 now
  | .edgeOn now => formatT 0x3#4 now
  | .read index => formatB 0x4#4 index
  | .b2d v => formatB 0x5#4 v
  | .d2b v => formatB 0x6#4 v

/-- The `mask` column of opcode_table.json (R56). -/
def tableMask (i : Instr) : ReqWord :=
  match i with
  | .nop => 0xFFFFFFFFF#36
  | .poll => 0xFFFFFFFFF#36
  | .edgeOff _ => 0xF00000000#36
  | .edgeOn _ => 0xF00000000#36
  | .read _ => 0xFFFFFFF00#36
  | .b2d _ => 0xFFFFFFF00#36
  | .d2b _ => 0xFFFFFFF00#36

/-- The `match` column of opcode_table.json (R56). -/
def tableMatch (i : Instr) : ReqWord :=
  match i with
  | .nop => 0x000000000#36
  | .poll => 0x100000000#36
  | .edgeOff _ => 0x200000000#36
  | .edgeOn _ => 0x300000000#36
  | .read _ => 0x400000000#36
  | .b2d _ => 0x500000000#36
  | .d2b _ => 0x600000000#36

end Sys2Proof
end

