-- ==== Sys2Proof/Config.lean ====
section
/-! DEFINITION. What is fixed for the machine: the constants of 00_scope.md R7 and R8, which are hardwired (10_state.md R16),
and the two OPEN parameters of the spec, `ARB` and `MakeTime`, as constants with no body. -/

namespace Sys2Proof

/-- The two request sources of the block (R14). -/
inductive Source where
  | edge
  | host
  deriving DecidableEq, Repr, Inhabited

namespace Config

/-- `T_MIN`, the least accepted padded pulse width in milliseconds. -/
abbrev tMin : Nat := 100
/-- `T_MAX`, the exclusive upper bound of the accepted padded pulse width. -/
abbrev tMax : Nat := 220
/-- `T_GAP`, the minute-gap threshold. -/
abbrev tGap : Nat := 1700
/-- `T_PAD`, the pulse-extend padding. -/
abbrev tPad : Ms := 5#32
/-- `FRAME_SLOTS`, the number of frame slots decoded (indices 0..58). -/
abbrev frameSlots : Nat := 59
/-- `OVERRUN_LIMIT`, the counter value above which the counter resets. -/
abbrev overrunLimit : Nat := 61
/-- `DECODE_AT`, the counter value that triggers a decode. -/
abbrev decodeAt : Nat := 59
/-- `SYNC_SLOT`, the sync-confirmation slot. -/
abbrev syncSlot : Nat := 20
/-- `CLEAR_AT`, the counter value at which parity state and timestamps clear. -/
abbrev clearAt : Nat := 1
/-- `REGIONAL_OFFSET` in seconds. -/
abbrev regionalOffset : Epoch := 3600#32
/-- `UTC_OFFSET_DST` in seconds. -/
abbrev utcOffsetDst : Epoch := 7200#32
/-- `UTC_OFFSET_STD` in seconds. -/
abbrev utcOffsetStd : Epoch := 3600#32
/-- `YEAR_OFFSET`. -/
abbrev yearOffset : Nat := 30

/-- Frame layout (R8): the civil-warning field. -/
abbrev civilOff : Nat := 1
abbrev civilWidth : Nat := 14
/-- Frame layout (R8): the single flag slots R, A1, Z1, Z2, A2. -/
abbrev slotR : Nat := 15
abbrev slotA1 : Nat := 16
abbrev slotZ1 : Nat := 17
abbrev slotZ2 : Nat := 18
abbrev slotA2 : Nat := 19
/-- Frame layout (R8): minute field and its parity slot. -/
abbrev minuteOff : Nat := 21
abbrev minuteWidth : Nat := 7
abbrev minuteParity : Nat := 28
/-- Frame layout (R8): hour field and its parity slot. -/
abbrev hourOff : Nat := 29
abbrev hourWidth : Nat := 6
abbrev hourParity : Nat := 35
/-- Frame layout (R8): day, month and year fields. -/
abbrev dayOff : Nat := 36
abbrev dayWidth : Nat := 6
abbrev monthOff : Nat := 45
abbrev monthWidth : Nat := 5
abbrev yearOff : Nat := 50
abbrev yearWidth : Nat := 8
/-- Frame layout (R8): the date parity group, slots 36..57, and its parity slot. -/
abbrev dateOff : Nat := 36
abbrev dateWidth : Nat := 22
abbrev dateParity : Nat := 58

/-- The shape of `MakeTime(sec, min, hour, day, month, yearsSince1970)` (R100): six values 0..255 to epoch seconds. -/
abbrev MakeTime :=
  BitVec 8 → BitVec 8 → BitVec 8 → BitVec 8 → BitVec 8 → BitVec 8 → Epoch

/-- The OPEN parameter `MakeTime` (R100, D16): nothing is assumed of it but that it is a function of its six arguments.
FREE VALUE, assumption 1. -/
opaque makeTime : MakeTime

/-- The OPEN parameter `ARB` (R47, D2): which source's request is performed first at the `n`-th simultaneous presentation.
FREE VALUE, assumption 2. -/
opaque arb : Nat → Source

end Config

end Sys2Proof
end

