-- ==== Sys2Proof/Machine/State.lean ====
section
/-! DEFINITION. The state of the block: the 21 registers of 10_state.md R15, its response output (30_encoding.md R54), and
the model's own fields for the block's inputs (00_scope.md R14: two request sources and RESET). Plain data throughout. -/

namespace Sys2Proof.Machine

/-- The block's complete architectural state, the 21 registers of R15 in that table's order. One-bit registers are `Bool`,
true for 1. -/
structure Regs where
  /-- `PULSE_START` (R21): the clock reading of the most recent EDGE_OFF. -/
  pulseStart : Ms
  /-- `LAST_PULSE_START` (R22): the `PULSE_START` of the last pulse accepted as a bit. -/
  lastPulseStart : Ms
  /-- `SOM` (R23): start of minute; set exactly when nonzero. -/
  som : Ms
  /-- `THIS_BIT` (R24): the padded duration of the most recent pulse. -/
  thisBit : Ms
  /-- `IND` (R25): the indicator-on state. -/
  ind : Bool
  /-- `CTR` (R26): the second counter. -/
  ctr : Slot
  /-- `BUF` (R27): the frame buffer. -/
  buf : Frame
  /-- `SYNC` (R28): the sync-confirmation value. -/
  sync : Bool
  /-- `TP` (R29): the `timeProcessed` flag. -/
  tp : Bool
  /-- `IND_OUT` (R30): the indicator mirror, which drives the indicator output port. -/
  indOut : Bool
  /-- `PERR` (R31): the parity-error mask, bit 0 minute, bit 1 hour, bit 2 date. -/
  perr : BitVec 3
  /-- `MIN_BCD` (R32). -/
  minBcd : BitVec 7
  /-- `HOUR_BCD` (R32). -/
  hourBcd : BitVec 6
  /-- `DAY_BCD` (R32). -/
  dayBcd : BitVec 6
  /-- `MONTH_BCD` (R32). -/
  monthBcd : BitVec 5
  /-- `YEAR_BCD` (R32). -/
  yearBcd : BitVec 8
  /-- `FLAGS` (R33): `{A2, Z2, Z1, A1, R}`, R in bit 0. -/
  flags : BitVec 5
  /-- `CIVIL` (R34): the civil-warning bits. -/
  civil : BitVec 14
  /-- `LOCAL_TS` (R35). -/
  localTs : Epoch
  /-- `REGIONAL_TS` (R35). -/
  regionalTs : Epoch
  /-- `UTC_TS` (R35). -/
  utcTs : Epoch
  deriving DecidableEq, Repr

/-- Every register holds 0 when RESET is released (R123). -/
def Regs.reset : Regs where
  pulseStart := 0#32
  lastPulseStart := 0#32
  som := 0#32
  thisBit := 0#32
  ind := false
  ctr := 0#6
  buf := 0#64
  sync := false
  tp := false
  indOut := false
  perr := 0#3
  minBcd := 0#7
  hourBcd := 0#6
  dayBcd := 0#6
  monthBcd := 0#5
  yearBcd := 0#8
  flags := 0#5
  civil := 0#14
  localTs := 0#32
  regionalTs := 0#32
  utcTs := 0#32

/-- A response `{ok, data}` (R54). -/
structure Response where
  ok : Bool
  data : BitVec 32
  deriving DecidableEq, Repr

/-- What the outside world does to the block at one moment (R14, R47, R123). -/
inductive Moment where
  /-- The edge source alone presents a request word. -/
  | edge (w : ReqWord)
  /-- The host alone presents a request word. -/
  | host (w : ReqWord)
  /-- Both sources present a word at the same moment: `ARB` orders them (R47). -/
  | both (edge host : ReqWord)
  /-- RESET is asserted and released (R123). -/
  | reset
  deriving DecidableEq, Repr

/-- The machine. `regs` is the whole of the block's own state (R15). The other three fields stand for its surroundings:
`response` is the response output of the request just performed (R54), `inputs` is what the outside world presents, oldest
first, and `arbCount` numbers the simultaneous presentations so far, the argument of the free value `Config.arb`
(assumptions 2, 3, 4). -/
structure State where
  regs : Regs
  /-- `none` when the last step performed no request (at reset). -/
  response : Option Response
  inputs : List Moment
  arbCount : Nat
  deriving DecidableEq, Repr

/-- The machine right after reset: every register 0 (R123); no response yet, nothing presented, no simultaneous
presentation so far (assumption 3). -/
def State.reset : State where
  regs := Regs.reset
  response := none
  inputs := []
  arbCount := 0

/-- The block never stops with a fault, so there is no fault to name: "No condition is escalated to a fatal stop" (R110).
Nothing raises one, which is faithful and not a restriction. -/
inductive Fault where
  deriving DecidableEq, Repr

/-- Why the model has no meaning for an instruction. -/
inductive Refusal where
  /-- Raised only by an arm of `exec` whose instruction has no meaning yet. Safe: nothing is claimed of it. No arm raises it. -/
  | notModelled (mnemonic : String)
  deriving DecidableEq, Repr

end Sys2Proof.Machine
end

