-- ==== Sys2Proof/Machine/Ops.lean ====
section
/-! DEFINITION. The shared operations: the slot space of the frame buffer (20_memory.md R39 to R41), the response and the
error response (30_encoding.md R54, 60_exceptions.md R111), and the input port (20_memory.md R46, R47). -/

namespace Sys2Proof.Machine

/-- `MemRead(i, 1)` (R39). -/
def memRead (buf : Frame) (i : Slot) : Bool := buf.getLsbD i.toNat

/-- `MemWrite(i, 1, b)`: the slot is replaced, not OR-ed into (R40, D10). -/
def memWrite (buf : Frame) (i : Slot) (b : Bool) : Frame :=
  (buf &&& ~~~(1#64 <<< i.toNat)) ||| ((BitVec.ofBool b).zeroExtend 64 <<< i.toNat)

/-- `BufClear()`: all 64 slots to 0 (R41). -/
def bufClear : Frame := 0#64

/-- `Slice(off, w)`: slots `off .. off+w-1`, least significant bit first (R39). -/
def slice (buf : Frame) (off width : Nat) : BitVec width := buf.extractLsb' off width

/-- `respond(ok, data)`: the request completes with this response (R54). -/
def respond (ok : Bool) (data : BitVec 32) (s : State) : Host.Outcome State Fault Refusal :=
  .next { s with response := some { ok := ok, data := data } }

/-- `raise ERR(reason)`: `respond(0, 0)` with no register written, whatever the reason (R111). The block takes no trap
(R110), so this is all that an error does. -/
def raiseErr (reason : ErrReason) (s : State) : Host.Outcome State Fault Refusal :=
  match reason with
  | .illegalWord => respond false 0#32 s
  | .nonzeroSbz => respond false 0#32 s
  | .reservedRegister => respond false 0#32 s

/-- The 33-bit response word `{ok, data}`, `ok` in bit 32 (R54). -/
def responseWord (r : Response) : BitVec 33 := BitVec.ofBool r.ok ++ r.data

/-- The model code of an error reason (R111). -/
def errCode (reason : ErrReason) : Nat :=
  match reason with
  | .illegalWord => 1
  | .nonzeroSbz => 2
  | .reservedRegister => 3

/-- "NOP is the idle word of the request port" (R108): what the port carries when no source presents a request. -/
def idleWord : ReqWord := 0x000000000#36

/-- RESET asserted and released (R123): every register holds 0 and no request is performed. -/
def resetBlock (s : State) : State :=
  { s with regs := Regs.reset, response := none }

/-- What the input port hands to one step: a request word, or RESET, with the state that remains to be acted on. -/
inductive Taken where
  | word (w : ReqWord) (s : State)
  | reset (s : State)
  deriving DecidableEq, Repr

/-- One request is taken at a time (R46), in the order each source presents them. Of two presented at the same moment
`ARB` says which comes first, and the other stays presented (R47, assumption 2); with nothing presented the port carries
the idle word (R108, assumption 5). -/
def takeInput (s : State) : Taken :=
  match s.inputs with
  | [] => .word idleWord s
  | .edge w :: rest => .word w { s with inputs := rest }
  | .host w :: rest => .word w { s with inputs := rest }
  | .both e h :: rest =>
    match Config.arb s.arbCount with
    | .edge => .word e { s with inputs := .host h :: rest, arbCount := s.arbCount + 1 }
    | .host => .word h { s with inputs := .edge e :: rest, arbCount := s.arbCount + 1 }
  | .reset :: rest => .reset { s with inputs := rest }

/-- The host presents a word next, before everything already presented. -/
def presentWord (w : ReqWord) (s : State) : State :=
  { s with inputs := .host w :: s.inputs }

end Sys2Proof.Machine
end

