-- ==== Sys2Proof/Machine/Flags.lean ====
section
/-! DEFINITION. Every flag and status computation: the parity-check tree (42_frame_decoder.md R92, R93), the packing of
FLAGS (R90, R33) and of STATUS (44_host_access.md R106). -/

namespace Sys2Proof.Machine

/-- `E_min`: slots 21..27 against parity slot 28 (R92); true on a mismatch with EVEN parity. -/
def errMinute (buf : Frame) : Bool :=
  (xorReduce (slice buf Config.minuteOff Config.minuteWidth)).xor (buf.getLsbD Config.minuteParity)

/-- `E_hour`: slots 29..34 against parity slot 35 (R92). -/
def errHour (buf : Frame) : Bool :=
  (xorReduce (slice buf Config.hourOff Config.hourWidth)).xor (buf.getLsbD Config.hourParity)

/-- `E_date`: slots 36..57, the unread slots 42..44 among them, against parity slot 58 (R92). -/
def errDate (buf : Frame) : Bool :=
  (xorReduce (slice buf Config.dateOff Config.dateWidth)).xor (buf.getLsbD Config.dateParity)

/-- The parity-error mask `m = {E_date, E_hour, E_min}` (R93). -/
def parityMask (buf : Frame) : BitVec 3 :=
  BitVec.ofBool (errDate buf) ++ (BitVec.ofBool (errHour buf) ++ BitVec.ofBool (errMinute buf))

/-- `FLAGS = {A2, Z2, Z1, A1, R}` (R90, R94). -/
def packFlags (buf : Frame) : BitVec 5 :=
  BitVec.ofBool (buf.getLsbD Config.slotA2) ++ (BitVec.ofBool (buf.getLsbD Config.slotZ2) ++
    (BitVec.ofBool (buf.getLsbD Config.slotZ1) ++ (BitVec.ofBool (buf.getLsbD Config.slotA1) ++
      BitVec.ofBool (buf.getLsbD Config.slotR))))

/-- `Z1`, "daylight-saving in effect", is `FLAGS[2]` (R33, R104). -/
def flagZ1 (flags : BitVec 5) : Bool := flags.getLsbD 2

/-- `STATUS = {IND_OUT, IND, SYNC, TP}` (R106). -/
def statusOf (r : Regs) : BitVec 4 :=
  BitVec.ofBool r.indOut ++ (BitVec.ofBool r.ind ++ (BitVec.ofBool r.sync ++ BitVec.ofBool r.tp))

end Sys2Proof.Machine
end

