-- ==== Sys2Proof/Machine/FrameDecoder.lean ====
section
/-! DEFINITION. The frame decoder: the Decode datapath that POLL step 3i invokes, the BCD conversions, and the requests B2D
and D2B (42_frame_decoder.md). -/

namespace Sys2Proof.Machine

/-- `Decode()` (R94): the fields of R89, the flags and civil bits of R90, and `PERR <- m`, assigned and not OR-ed (D13);
all written whatever the mask. -/
def decodeFrame (r : Regs) : Regs :=
  { r with
    minBcd := slice r.buf Config.minuteOff Config.minuteWidth
    hourBcd := slice r.buf Config.hourOff Config.hourWidth
    dayBcd := slice r.buf Config.dayOff Config.dayWidth
    monthBcd := slice r.buf Config.monthOff Config.monthWidth
    yearBcd := slice r.buf Config.yearOff Config.yearWidth
    flags := packFlags r.buf
    civil := slice r.buf Config.civilOff Config.civilWidth
    perr := parityMask r.buf }

/-- `B2D(v) = (v / 16) * 10 + (v % 16)`, exact, 0..165 (R95). -/
def bcdToDec (v : BitVec 8) : Nat := (v.toNat / 16) * 10 + v.toNat % 16

/-- `D2B(v) = (v / 10) * 16 + (v % 10)`, exact, 0..405 (R96). -/
def decToBcd (v : BitVec 8) : Nat := (v.toNat / 10) * 16 + v.toNat % 10

/-- `B2D v`: `respond(1, zext_32(B2D(v)))`, no register read or written (R98). -/
def execB2d (v : BitVec 8) (s : State) : Host.Outcome State Fault Refusal :=
  respond true (BitVec.ofNat 32 (bcdToDec v)) s

/-- `D2B v`: `respond(1, zext_32(D2B(v)))`, no register read or written (R99). -/
def execD2b (v : BitVec 8) (s : State) : Host.Outcome State Fault Refusal :=
  respond true (BitVec.ofNat 32 (decToBcd v)) s

end Sys2Proof.Machine
end

