-- ==== Sys2Proof/Machine/TimestampBuilder.lean ====
section
/-! DEFINITION. The timestamp builder: the Build datapath that POLL step 3i invokes, and the named property `MakeTimeCivil`
of the calendar parameter (43_timestamp_builder.md). -/

namespace Sys2Proof.Machine

/-- An argument of `MakeTime`: B2D of a field zero-extended to 8 bits; at most 165, so it fits 8 bits (R95, R102). -/
def bcdArg (v : BitVec 8) : BitVec 8 := BitVec.ofNat 8 (bcdToDec v)

/-- The year argument `B2D(YEAR_BCD) + 30`, exact, 30..195, so it fits 8 bits (R101). -/
def yearArg (v : BitVec 8) : BitVec 8 := BitVec.ofNat 8 (bcdToDec v + Config.yearOffset)

/-- `local`: `MakeTime` of zero seconds and the five fields (R102). -/
def localTime (mt : Config.MakeTime) (r : Regs) : Epoch :=
  mt 0#8 (bcdArg (r.minBcd.zeroExtend 8)) (bcdArg (r.hourBcd.zeroExtend 8)) (bcdArg (r.dayBcd.zeroExtend 8))
    (bcdArg (r.monthBcd.zeroExtend 8)) (yearArg r.yearBcd)

/-- The UTC offset, selected by Z1 alone (R104). -/
def utcOffset (flags : BitVec 5) : Epoch :=
  if flagZ1 flags then Config.utcOffsetDst else Config.utcOffsetStd

/-- `Build()` for a given `MakeTime` (R102). -/
def buildWith (mt : Config.MakeTime) (r : Regs) : Regs :=
  { r with
    localTs := localTime mt r
    regionalTs := localTime mt r - Config.regionalOffset
    utcTs := localTime mt r - utcOffset r.flags }

/-- `Build()` of the block, with its open parameter `MakeTime` (R100, R102). -/
def build (r : Regs) : Regs := buildWith Config.makeTime r

/-- A leap year of the proleptic Gregorian calendar (R100). -/
def isLeap (year : Nat) : Bool := (year % 4 == 0 && year % 100 != 0) || year % 400 == 0

/-- The days of a month, 1..12 (R100: "the length of that month"). -/
def daysInMonth (year month : Nat) : Nat :=
  match month with
  | 2 => if isLeap year then 29 else 28
  | 4 => 30
  | 6 => 30
  | 9 => 30
  | 11 => 30
  | _ => 31

/-- The days of a year. -/
def daysInYear (year : Nat) : Nat := if isLeap year then 366 else 365

/-- The days from 1970-01-01 to 1 January of the year `1970 + n`. -/
def daysToYear (n : Nat) : Nat :=
  match n with
  | 0 => 0
  | k + 1 => daysToYear k + daysInYear (1970 + k)

/-- The days from 1 January to the first day of the month `m + 1`. -/
def daysToMonth (year m : Nat) : Nat :=
  match m with
  | 0 => 0
  | k + 1 => daysToMonth year k + daysInMonth year (k + 1)

/-- Arguments that name a real calendar instant (R100). -/
abbrev realInstant (sec min hour day month years : BitVec 8) : Prop :=
  sec.toNat ≤ 59 ∧ min.toNat ≤ 59 ∧ hour.toNat ≤ 23 ∧ 1 ≤ month.toNat ∧ month.toNat ≤ 12 ∧
    1970 + years.toNat < 2106 ∧ 1 ≤ day.toNat ∧ day.toNat ≤ daysInMonth (1970 + years.toNat) month.toNat

/-- The seconds from 1970-01-01 00:00:00 to the instant, with 86400-second days (R100). -/
def civilSeconds (sec min hour day month years : BitVec 8) : Nat :=
  (daysToYear years.toNat + daysToMonth (1970 + years.toNat) (month.toNat - 1) + (day.toNat - 1)) * 86400 +
    hour.toNat * 3600 + min.toNat * 60 + sec.toNat

/-- The named property `MakeTimeCivil` (R100; general knowledge by the spec's own word, K1): on real instants the parameter
counts the civil seconds. The model assumes it nowhere; a claim that needs it takes it as a premise. -/
def MakeTimeCivil (mt : Config.MakeTime) : Prop :=
  ∀ sec min hour day month years, realInstant sec min hour day month years →
    (mt sec min hour day month years).toNat = civilSeconds sec min hour day month years

end Sys2Proof.Machine
end

