-- ==== Sys2Proof/Machine/FrameAssembler.lean ====
section
/-! DEFINITION. The frame assembler: POLL, one definition per step of 41_frame_assembler.md R70, composed in the order R84
makes part of the rule. -/

namespace Sys2Proof.Machine

/-- `InRange(d)`: `100 <= d < 220`, unsigned, on the padded duration (R73). -/
def inRange (d : Ms) : Bool := decide (Config.tMin ≤ d.toNat) && decide (d.toNat < Config.tMax)

/-- `(d / 100) - 1`, exact for an accepted duration (R77). -/
def classifyValue (d : Ms) : Nat := d.toNat / 100 - 1

/-- `Classify(d)` as a bit (R77): applied only to an accepted duration, where the value is 0 or 1. -/
def classify (d : Ms) : Bool := classifyValue d == 1

/-- `SOM` is set exactly when it is nonzero (R23). -/
def somSet (r : Regs) : Bool := r.som != 0#32

/-- Step 1's condition: the marker and `TP` are both set (R71). -/
def minuteAvailable (r : Regs) : Bool := somSet r && r.tp

/-- Step 2, the indicator mirror (R72). -/
def mirrorInd (r : Regs) : Regs := { r with indOut := r.ind }

/-- Step 3a, resynchronisation (R74); `SYNC` is not cleared (D12). -/
def resync (r : Regs) : Regs :=
  if somSet r then { r with ctr := 0#6, tp := false, buf := bufClear } else r

/-- Step 3b, the pulse start is recorded (R75). -/
def recordStart (r : Regs) : Regs := { r with lastPulseStart := r.pulseStart }

/-- Step 3c, the stale-result clear at `CTR = 1` (R76). -/
def clearStale (r : Regs) : Regs :=
  if r.ctr.toNat = Config.clearAt then
    { r with perr := 0#3, localTs := 0#32, regionalTs := 0#32, utcTs := 0#32 }
  else r

/-- Step 3e, the frame-buffer index writer (R78). -/
def writeSlot (b : Bool) (r : Regs) : Regs := { r with buf := memWrite r.buf r.ctr b }

/-- Step 3f, the sync-confirmation capture, before the counter moves (R79). -/
def captureSync (b : Bool) (r : Regs) : Regs :=
  if r.ctr.toNat = Config.syncSlot then { r with sync := b } else r

/-- Step 3g, the second counter with its overrun guard (R80). -/
def advanceCtr (r : Regs) : Regs :=
  if Config.overrunLimit < r.ctr.toNat then { r with ctr := 0#6 } else { r with ctr := r.ctr + 1#6 }

/-- Step 3h, the duration is consumed (R81). -/
def consume (r : Regs) : Regs := { r with thisBit := 0#32 }

/-- Steps 3a to 3h for a duration in range; the bit of step 3d is classified from the duration read at step 3. -/
def collectBit (r : Regs) : Regs :=
  let b := classify r.thisBit
  consume (advanceCtr (captureSync b (writeSlot b (clearStale (recordStart (resync r))))))

/-- `TP <- 1` after a clean build (R82). -/
def publish (r : Regs) : Regs := { r with tp := true }

/-- Step 3i, the decode trigger: decode, and on a clean mask build and publish (R82). -/
def decodeTrigger (r : Regs) : Regs :=
  if r.ctr.toNat = Config.decodeAt ∧ r.sync = true then
    if (decodeFrame r).perr = 0#3 then publish (build (decodeFrame r)) else decodeFrame r
  else r

/-- Steps 2 to 4 (R70): the mirror, then the bit if one is waiting, else nothing (R83). -/
def pollBit (r : Regs) : Regs :=
  if inRange r.thisBit then decodeTrigger (collectBit (mirrorInd r)) else mirrorInd r

/-- POLL on the registers (R70). -/
def pollRegs (r : Regs) : Regs :=
  if minuteAvailable r then { r with tp := false } else pollBit r

/-- POLL's response data: the marker when step 1 fires, else 0 (R70, R71). -/
def pollData (r : Regs) : BitVec 32 := if minuteAvailable r then r.som else 0#32

/-- `POLL` (R70). -/
def execPoll (s : State) : Host.Outcome State Fault Refusal :=
  respond true (pollData s.regs) { s with regs := pollRegs s.regs }

end Sys2Proof.Machine
end

