-- ==== Sys2Proof/Machine/Operands.lean ====
section
/-! DEFINITION. The operand of READ: the register map of 44_host_access.md R106. -/

namespace Sys2Proof.Machine

/-- The READ number of each name (R106). -/
def regNumber (r : RegName) : BitVec 8 :=
  match r with
  | .ctr => 0x00#8
  | .bufLo => 0x01#8
  | .bufHi => 0x02#8
  | .pulseStart => 0x03#8
  | .lastPulseStart => 0x04#8
  | .som => 0x05#8
  | .thisBit => 0x06#8
  | .status => 0x07#8
  | .perr => 0x08#8
  | .minBcd => 0x09#8
  | .hourBcd => 0x0A#8
  | .dayBcd => 0x0B#8
  | .monthBcd => 0x0C#8
  | .yearBcd => 0x0D#8
  | .flags => 0x0E#8
  | .civil => 0x0F#8
  | .localTs => 0x10#8
  | .regionalTs => 0x11#8
  | .utcTs => 0x12#8

/-- `ReadMap(index)`: the register zero-extended to 32 bits, BUF in two halves, STATUS packed (R106, R42); nothing for the
reserved numbers 0x13..0xFF. -/
def readMap (r : Regs) (index : BitVec 8) : Option (BitVec 32) :=
  match index.toNat with
  | 0x00 => some (r.ctr.zeroExtend 32)
  | 0x01 => some (r.buf.extractLsb' 0 32)
  | 0x02 => some (r.buf.extractLsb' 32 32)
  | 0x03 => some r.pulseStart
  | 0x04 => some r.lastPulseStart
  | 0x05 => some r.som
  | 0x06 => some r.thisBit
  | 0x07 => some ((statusOf r).zeroExtend 32)
  | 0x08 => some (r.perr.zeroExtend 32)
  | 0x09 => some (r.minBcd.zeroExtend 32)
  | 0x0A => some (r.hourBcd.zeroExtend 32)
  | 0x0B => some (r.dayBcd.zeroExtend 32)
  | 0x0C => some (r.monthBcd.zeroExtend 32)
  | 0x0D => some (r.yearBcd.zeroExtend 32)
  | 0x0E => some (r.flags.zeroExtend 32)
  | 0x0F => some (r.civil.zeroExtend 32)
  | 0x10 => some r.localTs
  | 0x11 => some r.regionalTs
  | 0x12 => some r.utcTs
  | _ => none

end Sys2Proof.Machine
end

