-- ==== Sys2Proof/Machine/HostAccess.lean ====
section
/-! DEFINITION. Host access: READ and NOP (44_host_access.md). -/

namespace Sys2Proof.Machine

/-- `READ index` (R107): the mapped register, or the error response for a reserved number; nothing written, `TP` not
cleared (D24). -/
def execRead (index : BitVec 8) (s : State) : Host.Outcome State Fault Refusal :=
  match readMap s.regs index with
  | some data => respond true data s
  | none => raiseErr .reservedRegister s

/-- `NOP` (R108). -/
def execNop (s : State) : Host.Outcome State Fault Refusal := respond true 0#32 s

end Sys2Proof.Machine
end

