-- ==== Sys2Proof/Machine/PulseSampler.lean ====
section
/-! DEFINITION. The pulse sampler: EDGE_OFF and EDGE_ON (40_pulse_sampler.md). -/

namespace Sys2Proof.Machine

/-- `GapDetect(now, last)`: the modular difference is above 1700 (R65). -/
def gapDetect (now last : Ms) : Bool := decide (Config.tGap < (now - last).toNat)

/-- `Duration(now, start)`: the modular difference plus the 5 ms padding, modulo 2^32 (R66). -/
def duration (now start : Ms) : Ms := (now - start) + Config.tPad

/-- EDGE_OFF on the registers (R67). -/
def sampleOff (now : Ms) (r : Regs) : Regs :=
  { r with
    pulseStart := now
    som := if gapDetect now r.lastPulseStart then now else 0#32
    ind := true }

/-- EDGE_ON on the registers (R68). -/
def sampleOn (now : Ms) (r : Regs) : Regs :=
  { r with
    thisBit := duration now r.pulseStart
    ind := false }

/-- `EDGE_OFF now` (R67). -/
def execEdgeOff (now : Ms) (s : State) : Host.Outcome State Fault Refusal :=
  respond true 0#32 { s with regs := sampleOff now s.regs }

/-- `EDGE_ON now` (R68). -/
def execEdgeOn (now : Ms) (s : State) : Host.Outcome State Fault Refusal :=
  respond true 0#32 { s with regs := sampleOn now s.regs }

end Sys2Proof.Machine
end

