-- ==== Sys2Proof/Machine/Dispatch.lean ====
section
/-! DEFINITION. One arm per request of opcode_table.json. -/

namespace Sys2Proof.Machine

def exec (i : Instr) (s : State) : Host.Outcome State Fault Refusal :=
  match i with
  | .nop => Sys2Proof.Machine.execNop s
  | .poll => Sys2Proof.Machine.execPoll s
  | .edgeOff now => Sys2Proof.Machine.execEdgeOff now s
  | .edgeOn now => Sys2Proof.Machine.execEdgeOn now s
  | .read index => Sys2Proof.Machine.execRead index s
  | .b2d v => Sys2Proof.Machine.execB2d v s
  | .d2b v => Sys2Proof.Machine.execD2b v s

end Sys2Proof.Machine
end

