-- ==== Sys2Proof/Machine/Step.lean ====
section
/-! DEFINITION. One step: the request the input port hands over is decoded and performed, atomically (20_memory.md R46). The
block has no program counter and fetches nothing (10_state.md R20). -/

namespace Sys2Proof.Machine

/-- One request word (R56): the request it spells is performed; a word that spells none is answered with the error
response (R57, R58, R111, assumption 6). -/
def perform (w : ReqWord) (s : State) : Host.Outcome State Fault Refusal :=
  match decode w with
  | .ok i => exec i s
  | .error reason => raiseErr reason s

/-- One step of the block: one request, or RESET. -/
def step (s : State) : Host.Outcome State Fault Refusal :=
  match takeInput s with
  | .word w s' => perform w s'
  | .reset s' => .next (resetBlock s')

/-- The state in which the next step performs the word: the host presents it first. Only `inputs` changes (assumption 4). -/
def State.withFetchWord (s : State) (nbits w : Nat) : State :=
  presentWord (BitVec.ofNat 36 (w % 2 ^ nbits)) s

end Sys2Proof.Machine
end

