-- ==== Sys2Proof/Machine/TextAssembler.lean ====
section
/-! DEFINITION. The textual form of requests (30_encoding.md R60) and the pseudo-requests (R61): reading a line, checking its
operand ranges (`AsmLine.wellFormed`), and expanding it to request words. Assumption 7 lists what R60 leaves open. -/

namespace Sys2Proof.Machine

/-- `PULSE <t>, <d>`: `EDGE_OFF <t>`, `EDGE_ON <(t + d) mod 2^32>`, `POLL` (R61). -/
def pulseRequests (t d : Nat) : List Instr :=
  [.edgeOff (BitVec.ofNat 32 t), .edgeOn (BitVec.ofNat 32 (t + d)), .poll]

/-- The requests of a line: itself, or the expansion of a pseudo-request (R60, R61). -/
def lineRequests (l : AsmLine) : List Instr :=
  match l with
  | .nop => [.nop]
  | .poll => [.poll]
  | .edgeOff t => [.edgeOff (BitVec.ofNat 32 t)]
  | .edgeOn t => [.edgeOn (BitVec.ofNat 32 t)]
  | .read n => [.read (BitVec.ofNat 8 n)]
  | .readName r => [.read (regNumber r)]
  | .b2d v => [.b2d (BitVec.ofNat 8 v)]
  | .d2b v => [.d2b (BitVec.ofNat 8 v)]
  | .pulse t d => pulseRequests t d
  | .bit t b => pulseRequests t (100 + 100 * b)

/-- The words of a line; "The assembler refuses an operand out of range" (R60). -/
def assembleLine (l : AsmLine) : Option (List ReqWord) :=
  if l.wellFormed then some ((lineRequests l).map encode) else none

/-- "A semicolon begins a comment" (R60). -/
def stripComment (cs : List Char) : List Char := cs.takeWhile fun c => c != ';'

/-- The tokens of a line: runs of characters between blanks, a comma being a token of its own. -/
def tokensFrom (run : List Char) (cs : List Char) : List (List Char) :=
  let closed := if run.isEmpty then [] else [run]
  match cs with
  | [] => closed
  | c :: rest =>
    if c == ' ' || c == '\t' then closed ++ tokensFrom [] rest
    else if c == ',' then closed ++ [c] :: tokensFrom [] rest
    else tokensFrom (run ++ [c]) rest

/-- The value of a digit, decimal or hexadecimal. -/
def digitValue (c : Char) : Option Nat :=
  if '0' ≤ c ∧ c ≤ '9' then some (c.toNat - '0'.toNat)
  else if 'a' ≤ c ∧ c ≤ 'f' then some (c.toNat - 'a'.toNat + 10)
  else if 'A' ≤ c ∧ c ≤ 'F' then some (c.toNat - 'A'.toNat + 10)
  else none

/-- Digits of a base, after a value already read. -/
def digitsFrom (base acc : Nat) (cs : List Char) : Option Nat :=
  match cs with
  | [] => some acc
  | c :: rest =>
    match digitValue c with
    | some d => if d < base then digitsFrom base (base * acc + d) rest else none
    | none => none

/-- "numbers are decimal, or hexadecimal with the prefix `0x`" (R60). -/
def readNumber (cs : List Char) : Option Nat :=
  match cs with
  | [] => none
  | '0' :: 'x' :: c :: rest => digitsFrom 16 0 (c :: rest)
  | c :: rest => digitsFrom 10 0 (c :: rest)

/-- The register names READ accepts in place of a number (R60, R106). -/
def nameTable : List (List Char × RegName) :=
  [(['C', 'T', 'R'], .ctr),
    (['B', 'U', 'F', '_', 'L', 'O'], .bufLo),
    (['B', 'U', 'F', '_', 'H', 'I'], .bufHi),
    (['P', 'U', 'L', 'S', 'E', '_', 'S', 'T', 'A', 'R', 'T'], .pulseStart),
    (['L', 'A', 'S', 'T', '_', 'P', 'U', 'L', 'S', 'E', '_', 'S', 'T', 'A', 'R', 'T'], .lastPulseStart),
    (['S', 'O', 'M'], .som),
    (['T', 'H', 'I', 'S', '_', 'B', 'I', 'T'], .thisBit),
    (['S', 'T', 'A', 'T', 'U', 'S'], .status),
    (['P', 'E', 'R', 'R'], .perr)] ++
  [(['M', 'I', 'N', '_', 'B', 'C', 'D'], .minBcd),
    (['H', 'O', 'U', 'R', '_', 'B', 'C', 'D'], .hourBcd),
    (['D', 'A', 'Y', '_', 'B', 'C', 'D'], .dayBcd),
    (['M', 'O', 'N', 'T', 'H', '_', 'B', 'C', 'D'], .monthBcd),
    (['Y', 'E', 'A', 'R', '_', 'B', 'C', 'D'], .yearBcd),
    (['F', 'L', 'A', 'G', 'S'], .flags),
    (['C', 'I', 'V', 'I', 'L'], .civil),
    (['L', 'O', 'C', 'A', 'L', '_', 'T', 'S'], .localTs),
    (['R', 'E', 'G', 'I', 'O', 'N', 'A', 'L', '_', 'T', 'S'], .regionalTs),
    (['U', 'T', 'C', '_', 'T', 'S'], .utcTs)]

/-- The register a name stands for. -/
def lookupName (cs : List Char) (table : List (List Char × RegName)) : Option RegName :=
  match table with
  | [] => none
  | (n, r) :: rest => if cs = n then some r else lookupName cs rest

/-- The operand of READ: a register name or a number (R60). -/
def readOperand (cs : List Char) : Option AsmLine :=
  match lookupName cs nameTable with
  | some r => some (.readName r)
  | none => (readNumber cs).map .read

/-- The line a token list spells (R60, R61). -/
def parseTokens (ts : List (List Char)) : Option AsmLine :=
  match ts with
  | [m] =>
    if m = ['N', 'O', 'P'] then some .nop
    else if m = ['P', 'O', 'L', 'L'] then some .poll
    else none
  | [m, a] =>
    if m = ['E', 'D', 'G', 'E', '_', 'O', 'F', 'F'] then (readNumber a).map .edgeOff
    else if m = ['E', 'D', 'G', 'E', '_', 'O', 'N'] then (readNumber a).map .edgeOn
    else if m = ['R', 'E', 'A', 'D'] then readOperand a
    else if m = ['B', '2', 'D'] then (readNumber a).map .b2d
    else if m = ['D', '2', 'B'] then (readNumber a).map .d2b
    else none
  | [m, a, c, b] =>
    if c = [','] then
      match readNumber a, readNumber b with
      | some t, some n =>
        if m = ['P', 'U', 'L', 'S', 'E'] then some (.pulse t n)
        else if m = ['B', 'I', 'T'] then some (.bit t n)
        else none
      | _, _ => none
    else none
  | _ => none

/-- The words of one line of text: none for a blank or comment line, refused if it spells no line or an operand is out of
range (R60). -/
def assembleText (cs : List Char) : Option (List ReqWord) :=
  match tokensFrom [] (stripComment cs) with
  | [] => some []
  | t :: ts =>
    match parseTokens (t :: ts) with
    | some l => assembleLine l
    | none => none

end Sys2Proof.Machine
end

