-- ==== Sys2Proof/Safety.lean ====
section
/-! DEFINITION. The terms claims are made in: invariants of the registers, the parts of the registers an ownership claim
speaks of, and runs of requests. -/

namespace Sys2Proof.Safety

open Sys2Proof.Machine

/-- "From reset, CTR takes only the values 0..62 and step 3e writes only slots 0..62" (R85). -/
abbrev counterInRange (r : Regs) : Prop := r.ctr.toNat ≤ 62 ∧ r.buf.getLsbD 63 = false

/-- Past slot 20, `SYNC` and slot 20 of the buffer agree (R79). -/
abbrev syncMatchesSlot (r : Regs) : Prop := 20 < r.ctr.toNat → r.buf.getLsbD 20 = r.sync

/-- The timestamps are all clear, or stand in the offsets of the builder (R103, R76). -/
abbrev timestampsConsistent (r : Regs) : Prop :=
  (r.localTs = 0#32 ∧ r.regionalTs = 0#32 ∧ r.utcTs = 0#32) ∨
    (r.localTs - r.regionalTs = 3600#32 ∧ (r.localTs - r.utcTs = 3600#32 ∨ r.localTs - r.utcTs = 7200#32))

/-- The registers the pulse sampler does not own are equal (R36): all but `PULSE_START`, `SOM`, `THIS_BIT`, `IND`. -/
abbrev sameBeyondSampler (r r' : Regs) : Prop :=
  r' = { r with pulseStart := r'.pulseStart, som := r'.som, thisBit := r'.thisBit, ind := r'.ind }

/-- The results of the decoder other than `PERR` are equal (R32, R33, R34). -/
abbrev sameFields (r r' : Regs) : Prop :=
  r'.minBcd = r.minBcd ∧ r'.hourBcd = r.hourBcd ∧ r'.dayBcd = r.dayBcd ∧ r'.monthBcd = r.monthBcd ∧
    r'.yearBcd = r.yearBcd ∧ r'.flags = r.flags ∧ r'.civil = r.civil

/-- The results a consumer reads in the grace window are equal (R130): the timestamps and `PERR`. -/
abbrev sameResults (r r' : Regs) : Prop :=
  r'.perr = r.perr ∧ r'.localTs = r.localTs ∧ r'.regionalTs = r.regionalTs ∧ r'.utcTs = r.utcTs

/-- A POLL in this state accepts a bit: step 1 does not fire and the waiting duration is in range (R70, R73). -/
abbrev acceptsBit (r : Regs) : Prop :=
  ¬(r.som ≠ 0#32 ∧ r.tp = true) ∧ 100 ≤ r.thisBit.toNat ∧ r.thisBit.toNat < 220

/-- The slot the next accepted bit goes to: 0 when the pulse resynchronises, else the counter (R74, R78). -/
def nextSlot (r : Regs) : Nat := if r.som ≠ 0#32 then 0 else r.ctr.toNat

/-- The bit an accepted duration stands for: "100..199 -> 0, 200..219 -> 1" (R77). -/
def bitValue (r : Regs) : Bool := decide (200 ≤ r.thisBit.toNat)

/-- The buffer after the next accepted bit: zeroed if the pulse resynchronises (R74), then one slot replaced (R40). -/
def frameAfterBit (r : Regs) : Frame :=
  ((if r.som ≠ 0#32 then 0#64 else r.buf) &&& ~~~(1#64 <<< nextSlot r)) |||
    (if bitValue r then 1#64 <<< nextSlot r else 0#64)

/-- Requests performed one after another (R46: the composition of their rules in that order). -/
def execAll (is : List Instr) (s : State) : Host.Outcome State Fault Refusal :=
  match is with
  | [] => .next s
  | i :: rest =>
    match exec i s with
    | .next s' => execAll rest s'
    | .fault f => .fault f
    | .refused e => .refused e

/-- The first `n` seconds of a frame: one nominal pulse per second from clock reading `t`, each followed by one POLL (R61
`BIT`, R88), the bit of second `i` being slot `i` of `frame`. -/
def frameRequests (t : Nat) (frame : Frame) (n : Nat) : List Instr :=
  match n with
  | 0 => []
  | k + 1 =>
    frameRequests t frame k ++
      pulseRequests (t + 1000 * k) (100 + 100 * (frame.getLsbD k).toNat)

end Sys2Proof.Safety
end

