-- ==== Sys2Proof/Certificates/Slice0/Obligations.lean ====
section
/-! DEFINITION. The statements for the provers; OBLIGATIONS.json lists them with the rules they formalise. -/

open Sys2Proof Sys2Proof.Machine Sys2Proof.Safety

/-! ### Encoding -/

/-- R52, R53, R55, R56: every request has exactly one word, and that word decodes to it. -/
def Obligations.EachWordIsTheWordOfOneRequest : Prop :=
  ∀ (w : ReqWord) (i : Instr), decode w = .ok i ↔ w = encode i

/-- R56: the decoder is the mask and match table, with the operands of R59; a word no row matches is ILLEGAL and is
answered `{0, 0}` with no register written. -/
def Obligations.DecoderIsTheMaskMatchTable : Prop :=
  ∀ w : ReqWord,
    (w &&& 0xFFFFFFFFF#36 = 0x000000000#36 → decode w = .ok .nop) ∧
    (w &&& 0xFFFFFFFFF#36 = 0x100000000#36 → decode w = .ok .poll) ∧
    (w &&& 0xF00000000#36 = 0x200000000#36 → decode w = .ok (.edgeOff (w.extractLsb' 0 32))) ∧
    (w &&& 0xF00000000#36 = 0x300000000#36 → decode w = .ok (.edgeOn (w.extractLsb' 0 32))) ∧
    (w &&& 0xFFFFFFF00#36 = 0x400000000#36 → decode w = .ok (.read (w.extractLsb' 0 8))) ∧
    (w &&& 0xFFFFFFF00#36 = 0x500000000#36 → decode w = .ok (.b2d (w.extractLsb' 0 8))) ∧
    (w &&& 0xFFFFFFF00#36 = 0x600000000#36 → decode w = .ok (.d2b (w.extractLsb' 0 8))) ∧
    ((∀ i, w &&& tableMask i ≠ tableMatch i) → (∃ e, decode w = .error e) ∧
      ∀ s, perform w s = .next { s with response := some ⟨false, 0#32⟩ })

/-- R57, R58: which words spell no request, and for which reason; `op = w / 2^32`, `payload = w mod 2^32`. Such a word
writes no register and is answered `{0, 0}`. -/
def Obligations.IllegalWordsAndTheirReasons : Prop :=
  ∀ w : ReqWord,
    (decode w = .error .illegalWord ↔ 0x7 ≤ w.toNat / 2 ^ 32) ∧
    (decode w = .error .nonzeroSbz ↔
      ((w.toNat / 2 ^ 32 = 0x0 ∨ w.toNat / 2 ^ 32 = 0x1) ∧ w.toNat % 2 ^ 32 ≠ 0) ∨
      ((w.toNat / 2 ^ 32 = 0x4 ∨ w.toNat / 2 ^ 32 = 0x5 ∨ w.toNat / 2 ^ 32 = 0x6) ∧
        w.toNat % 2 ^ 32 / 2 ^ 8 ≠ 0)) ∧
    decode w ≠ .error .reservedRegister ∧
    (∀ e, decode w = .error e → ∀ s, perform w s = .next { s with response := some ⟨false, 0#32⟩ })

/-- R62: the spec's encoding examples. -/
def Obligations.SpecExampleWordsDecode : Prop :=
  decode 0x000000000#36 = .ok .nop ∧
  decode 0x100000000#36 = .ok .poll ∧
  decode 0x200001388#36 = .ok (.edgeOff 5000#32) ∧
  decode 0x3000013EC#36 = .ok (.edgeOn 5100#32) ∧
  decode 0x400000000#36 = .ok (.read (regNumber .ctr)) ∧
  decode 0x400000012#36 = .ok (.read (regNumber .utcTs)) ∧
  decode 0x500000059#36 = .ok (.b2d 0x59#8) ∧
  decode 0x60000003B#36 = .ok (.d2b 59#8) ∧
  decode 0x100000001#36 = .error .nonzeroSbz ∧
  decode 0x700000000#36 = .error .illegalWord

/-! ### Steps, errors and reset -/

/-- R46, R119, R57, R111: whichever source presents a word alone, the step performs that word on the state with it taken from
the inputs: the request it spells, or, when it spells none, the response `{0, 0}` and nothing else. The inputs are the model's
own (assumption 4); that the run goes on after such a word is assumption 6. -/
def Obligations.StepPerformsThePresentedRequest : Prop :=
  ∀ (s : State) (w : ReqWord) (rest : List Moment), (s.inputs = .host w :: rest ∨ s.inputs = .edge w :: rest) →
    step s = perform w { s with inputs := rest } ∧
    (∀ i, decode w = .ok i → step s = exec i { s with inputs := rest }) ∧
    (∀ e, decode w = .error e → step s = .next { s with inputs := rest, response := some ⟨false, 0#32⟩ })

/-- The model's choice (assumption 5, from R108 "the idle word of the request port"): with nothing presented a step is a
NOP. -/
def Obligations.IdlePortPerformsNop : Prop :=
  ∀ s : State, s.inputs = [] → step s = exec .nop s

/-- R47: two requests presented at the same moment are both performed, in an order that is left open. That the two are
performed back to back, before anything presented later, is the model's choice (assumption 2, DESIGN CHOICE: R47 lets the
sources interleave); the inputs and `arbCount` are the model's own (assumptions 4, 3). -/
def Obligations.SimultaneousRequestsRunInOneOrderOrTheOther : Prop :=
  ∀ (s : State) (e h : ReqWord) (rest : List Moment), s.inputs = .both e h :: rest →
    ∃ s', core.run 2 s = .next s' ∧ s'.inputs = rest ∧
      ((∃ s1, perform e { s with inputs := rest, arbCount := s.arbCount + 1 } = .next s1 ∧ perform h s1 = .next s') ∨
       (∃ s1, perform h { s with inputs := rest, arbCount := s.arbCount + 1 } = .next s1 ∧ perform e s1 = .next s'))

/-- R47, R36: the order of simultaneous requests shows in the registers only when the host's word is a POLL, an EDGE_OFF or an
EDGE_ON (R119 lets the host present an edge request): beside any other host word, an ILLEGAL one among them, the registers
are those the edge source's word alone leaves. The two run back to back by the model's choice (assumption 2), and the moments
are its own (assumption 4). -/
def Obligations.ArbitrationShowsOnlyWithAPollOrEdgeHostWord : Prop :=
  ∀ (s : State) (e h : ReqWord) (rest : List Moment), s.inputs = .both e h :: rest →
    (∀ i, decode h = .ok i → i ≠ .poll ∧ (∀ now, i ≠ .edgeOff now) ∧ (∀ now, i ≠ .edgeOn now)) →
    ∃ s' s1, core.run 2 s = .next s' ∧ perform e s = .next s1 ∧ s'.regs = s1.regs

/-- R111: an error response is given for exactly the three reasons, with data 0 and no register written; the reasons' model
codes. -/
def Obligations.ErrorResponsesAreExactlyTheThreeReasons : Prop :=
  errCode .illegalWord = 1 ∧ errCode .nonzeroSbz = 2 ∧ errCode .reservedRegister = 3 ∧
  ∀ (w : ReqWord) (s : State), ∃ s' r, perform w s = .next s' ∧ s'.response = some r ∧
    (r.ok = false ↔
      decode w = .error .illegalWord ∨ decode w = .error .nonzeroSbz ∨
        ∃ index, decode w = .ok (.read index) ∧ 0x12 < index.toNat) ∧
    (r.ok = false → r.data = 0#32 ∧ s'.regs = s.regs)

/-- R110, R54: the block takes no trap: every step answers a next state, with a response unless it was a RESET. For the step
with nothing presented, of which R110 and R54 do not speak, the response is the model's choice (assumption 5, DEDUCED from
R108); that an ILLEGAL word does not stop the run is assumption 6. -/
def Obligations.NoStepStopsAndEveryRequestIsAnswered : Prop :=
  ∀ s : State, ∃ s', step s = .next s' ∧
    ((∀ rest, s.inputs ≠ .reset :: rest) → ∃ r, s'.response = some r)

/-- R123: RESET leaves every register 0 from any state and performs no request; the reset state is that state. The `.reset` input
and the absent response are the model's own (assumptions 4, 3). -/
def Obligations.ResetZeroesEveryRegister : Prop :=
  (∀ (s : State) (rest : List Moment), s.inputs = .reset :: rest →
    ∃ s', step s = .next s' ∧ s'.regs = State.reset.regs ∧ s'.response = none ∧ s'.inputs = rest) ∧
  (let r := State.reset.regs
   r.pulseStart = 0 ∧ r.lastPulseStart = 0 ∧ r.som = 0 ∧ r.thisBit = 0 ∧ r.ind = false ∧ r.ctr = 0 ∧ r.buf = 0 ∧
   r.sync = false ∧ r.tp = false ∧ r.indOut = false ∧ r.perr = 0 ∧ r.minBcd = 0 ∧ r.hourBcd = 0 ∧ r.dayBcd = 0 ∧
   r.monthBcd = 0 ∧ r.yearBcd = 0 ∧ r.flags = 0 ∧ r.civil = 0 ∧ r.localTs = 0 ∧ r.regionalTs = 0 ∧ r.utcTs = 0)

/-! ### Pulse sampler -/

/-- R67: EDGE_OFF in full: its words, its three register writes and nothing else, its response. -/
def Obligations.EdgeOffRecordsThePulseStart : Prop :=
  (∀ w : ReqWord, w &&& 0xF00000000#36 = 0x200000000#36 ↔ decode w = .ok (.edgeOff (w.extractLsb' 0 32))) ∧
  ∀ (now : Ms) (s : State),
    exec (.edgeOff now) s = .next { s with
      regs := { s.regs with
        pulseStart := now
        som := if 1700 < (now.toNat + 2 ^ 32 - s.regs.lastPulseStart.toNat) % 2 ^ 32 then now else 0#32
        ind := true }
      response := some ⟨true, 0#32⟩ }

/-- R68: EDGE_ON in full: its words, its two register writes and nothing else, its response. -/
def Obligations.EdgeOnMeasuresThePulse : Prop :=
  (∀ w : ReqWord, w &&& 0xF00000000#36 = 0x300000000#36 ↔ decode w = .ok (.edgeOn (w.extractLsb' 0 32))) ∧
  ∀ (now : Ms) (s : State),
    exec (.edgeOn now) s = .next { s with
      regs := { s.regs with
        thisBit := BitVec.ofNat 32 (now.toNat + 2 ^ 32 - s.regs.pulseStart.toNat + 5)
        ind := false }
      response := some ⟨true, 0#32⟩ }

/-- R23, R65, R132: after an EDGE_OFF the marker is set exactly when the gap is above 1700 ms and `now` is not 0. -/
def Obligations.MarkerIsSetExactlyOnAGap : Prop :=
  ∀ (now : Ms) (s : State), ∃ s', exec (.edgeOff now) s = .next s' ∧
    (s'.regs.som ≠ 0#32 ↔
      1700 < (now.toNat + 2 ^ 32 - s.regs.lastPulseStart.toNat) % 2 ^ 32 ∧ now ≠ 0#32)

/-- R36: which registers each request may write. -/
def Obligations.OwnershipOfTheRegisters : Prop :=
  ∀ (i : Instr) (s : State), ∃ s', exec i s = .next s' ∧
    (∀ now, i = .edgeOff now ∨ i = .edgeOn now → sameBeyondSampler s.regs s'.regs) ∧
    (i = .poll → s'.regs.pulseStart = s.regs.pulseStart ∧ s'.regs.som = s.regs.som ∧ s'.regs.ind = s.regs.ind) ∧
    ((i = .nop ∨ (∃ x, i = .read x) ∨ (∃ v, i = .b2d v) ∨ (∃ v, i = .d2b v)) → s'.regs = s.regs)

/-- R49: two READs of the halves of BUF with any edge requests between them return halves of the same buffer. -/
def Obligations.BufferHalvesAreReadFromOneBuffer : Prop :=
  ∀ (s : State) (es : List Instr), (∀ i ∈ es, (∃ t, i = .edgeOff t) ∨ (∃ t, i = .edgeOn t)) →
    ∃ s1 s2 s3 lo hi, exec (.read 0x01#8) s = .next s1 ∧ s1.response = some ⟨true, lo⟩ ∧
      execAll es s1 = .next s2 ∧ exec (.read 0x02#8) s2 = .next s3 ∧ s3.response = some ⟨true, hi⟩ ∧
      hi ++ lo = s.regs.buf

/-! ### Frame assembler -/

/-- R71: step 1 in full. -/
def Obligations.PollReturnsTheMarkerAndClearsOnlyTp : Prop :=
  ∀ s : State, s.regs.som ≠ 0#32 → s.regs.tp = true →
    exec .poll s = .next { s with regs := { s.regs with tp := false }, response := some ⟨true, s.regs.som⟩ }

/-- R83, R72: a POLL that finds no duration in range only mirrors the indicator. -/
def Obligations.PollSkipsADurationOutOfRange : Prop :=
  ∀ s : State, ¬(s.regs.som ≠ 0#32 ∧ s.regs.tp = true) →
    (s.regs.thisBit.toNat < 100 ∨ 220 ≤ s.regs.thisBit.toNat) →
    exec .poll s = .next { s with regs := { s.regs with indOut := s.regs.ind }, response := some ⟨true, 0#32⟩ }

/-- R70, R72 to R81: everything a POLL does that accepts a bit and does not decode. `TP` keeps its value: it is 0 already
whenever step 3a runs (R74). -/
def Obligations.PollAcceptsABit : Prop :=
  ∀ s : State, acceptsBit s.regs → ¬(nextSlot s.regs = 58 ∧ s.regs.sync = true) →
    exec .poll s = .next { s with
      regs := { s.regs with
        indOut := s.regs.ind
        lastPulseStart := s.regs.pulseStart
        thisBit := 0#32
        buf := frameAfterBit s.regs
        ctr := if 61 < nextSlot s.regs then 0#6 else BitVec.ofNat 6 (nextSlot s.regs + 1)
        sync := if nextSlot s.regs = 20 then bitValue s.regs else s.regs.sync
        perr := if nextSlot s.regs = 1 then 0#3 else s.regs.perr
        localTs := if nextSlot s.regs = 1 then 0#32 else s.regs.localTs
        regionalTs := if nextSlot s.regs = 1 then 0#32 else s.regs.regionalTs
        utcTs := if nextSlot s.regs = 1 then 0#32 else s.regs.utcTs }
      response := some ⟨true, 0#32⟩ }

/-- R82, R112: the POLL that fills slot 58 with `SYNC` = 1 and finds a parity error: every decoder output is written, the
timestamps and `TP` are not. -/
def Obligations.PollDecodesAndReportsAParityError : Prop :=
  ∀ s : State, acceptsBit s.regs → nextSlot s.regs = 58 → s.regs.sync = true →
    parityMask (frameAfterBit s.regs) ≠ 0#3 →
    exec .poll s = .next { s with
      regs := { s.regs with
        indOut := s.regs.ind
        lastPulseStart := s.regs.pulseStart
        thisBit := 0#32
        buf := frameAfterBit s.regs
        ctr := 59#6
        minBcd := (frameAfterBit s.regs).extractLsb' 21 7
        hourBcd := (frameAfterBit s.regs).extractLsb' 29 6
        dayBcd := (frameAfterBit s.regs).extractLsb' 36 6
        monthBcd := (frameAfterBit s.regs).extractLsb' 45 5
        yearBcd := (frameAfterBit s.regs).extractLsb' 50 8
        flags := (frameAfterBit s.regs).extractLsb' 15 5
        civil := (frameAfterBit s.regs).extractLsb' 1 14
        perr := parityMask (frameAfterBit s.regs) }
      response := some ⟨true, 0#32⟩ }

/-- R82, R102: the POLL that fills slot 58 with `SYNC` = 1 and finds clean parity decodes, builds and publishes. The
calendar function is the free parameter `MakeTime` (assumption 1): this holds whatever it is. -/
def Obligations.PollDecodesBuildsAndPublishes : Prop :=
  ∀ s : State, acceptsBit s.regs → nextSlot s.regs = 58 → s.regs.sync = true →
    parityMask (frameAfterBit s.regs) = 0#3 →
    let f := frameAfterBit s.regs
    let dec : Nat → BitVec 8 := fun v => BitVec.ofNat 8 (v / 16 * 10 + v % 16)
    let loc := Config.makeTime 0#8 (dec (f.toNat / 2 ^ 21 % 2 ^ 7)) (dec (f.toNat / 2 ^ 29 % 2 ^ 6))
      (dec (f.toNat / 2 ^ 36 % 2 ^ 6)) (dec (f.toNat / 2 ^ 45 % 2 ^ 5)) (dec (f.toNat / 2 ^ 50 % 2 ^ 8) + 30#8)
    exec .poll s = .next { s with
      regs := { s.regs with
        indOut := s.regs.ind
        lastPulseStart := s.regs.pulseStart
        thisBit := 0#32
        buf := f
        ctr := 59#6
        minBcd := f.extractLsb' 21 7
        hourBcd := f.extractLsb' 29 6
        dayBcd := f.extractLsb' 36 6
        monthBcd := f.extractLsb' 45 5
        yearBcd := f.extractLsb' 50 8
        flags := f.extractLsb' 15 5
        civil := f.extractLsb' 1 14
        perr := 0#3
        localTs := loc
        regionalTs := loc - 3600#32
        utcTs := if f.getLsbD 17 then loc - 7200#32 else loc - 3600#32
        tp := true }
      response := some ⟨true, 0#32⟩ }

/-- R74: a pulse that resynchronises restarts the frame at slot 0 and leaves `SYNC`, `PERR`, the decoder outputs and the
timestamps alone, and `SOM` set. -/
def Obligations.ResynchronisationRestartsTheFrame : Prop :=
  ∀ s : State, acceptsBit s.regs → s.regs.som ≠ 0#32 →
    ∃ s', exec .poll s = .next s' ∧ s'.regs.ctr = 1#6 ∧ s.regs.tp = false ∧ s'.regs.tp = false ∧
      s'.regs.buf = (if bitValue s.regs then 1#64 else 0#64) ∧ s'.regs.sync = s.regs.sync ∧
      sameFields s.regs s'.regs ∧ sameResults s.regs s'.regs ∧ s'.regs.som = s.regs.som ∧
      s'.regs.thisBit = 0#32

/-- R76: accepting the bit of slot 1 clears `PERR` and the timestamps and no other result; a resynchronising pulse never
clears them. -/
def Obligations.SlotOneClearsTheStaleResults : Prop :=
  ∀ s : State, acceptsBit s.regs →
    ∃ s', exec .poll s = .next s' ∧
      (s.regs.som = 0#32 → s.regs.ctr = 1#6 →
        s'.regs.perr = 0#3 ∧ s'.regs.localTs = 0#32 ∧ s'.regs.regionalTs = 0#32 ∧ s'.regs.utcTs = 0#32 ∧
        sameFields s.regs s'.regs) ∧
      (s.regs.som ≠ 0#32 → sameResults s.regs s'.regs)

/-- R78, R77: the accepted bit goes to its slot, 0 for 100..199 and 1 for 200..219, and every other slot is unchanged, or
zero when the pulse resynchronises (R74). -/
def Obligations.TheBitIsWrittenToItsSlotAlone : Prop :=
  ∀ s : State, acceptsBit s.regs →
    ∃ s', exec .poll s = .next s' ∧ ∀ j, j < 64 →
      s'.regs.buf.getLsbD j =
        if j = nextSlot s.regs then decide (s.regs.thisBit.toNat / 100 - 1 = 1)
        else if s.regs.som ≠ 0#32 then false else s.regs.buf.getLsbD j

/-- R79, R28: `SYNC` takes the bit accepted while the counter is 20 and nothing else of a POLL changes it. -/
def Obligations.SyncIsCapturedAtSlot20 : Prop :=
  ∀ s : State, ∃ s', exec .poll s = .next s' ∧
    (acceptsBit s.regs → nextSlot s.regs = 20 → s'.regs.sync = bitValue s.regs) ∧
    (¬(acceptsBit s.regs ∧ nextSlot s.regs = 20) → s'.regs.sync = s.regs.sync)

/-- R80, R83: the counter advances only on an accepted bit, to 0 from above 61; no error is reported. -/
def Obligations.CounterAdvancesOnlyOnAnAcceptedBit : Prop :=
  ∀ s : State, ∃ s' d, exec .poll s = .next s' ∧ s'.response = some ⟨true, d⟩ ∧
    (acceptsBit s.regs → s'.regs.ctr.toNat = if 61 < nextSlot s.regs then 0 else nextSlot s.regs + 1) ∧
    (¬acceptsBit s.regs → s'.regs.ctr = s.regs.ctr)

/-- R44, R81: of two POLLs with no edge request between, where the first did not return at step 1, the second changes no
register. (R44's exception, a first POLL that sets `TP` while `SOM` is set, never arises: a pulse with `SOM` set restarts
at slot 0 and cannot reach the decode.) -/
def Obligations.ASecondPollChangesNothing : Prop :=
  ∀ s : State, ¬(s.regs.som ≠ 0#32 ∧ s.regs.tp = true) →
    ∃ s1 s2, exec .poll s = .next s1 ∧ exec .poll s1 = .next s2 ∧ s2.regs = s1.regs ∧
      s2.response = some ⟨true, 0#32⟩

/-- R86, R114: overrun recovery: the bit goes to slot 62 or 63, the counter to 0, every other slot and every result is
unchanged; a POLL that accepts no bit leaves the counter. -/
def Obligations.OverrunResetsTheCounterSilently : Prop :=
  ∀ s : State, 62 ≤ s.regs.ctr.toNat → s.regs.som = 0#32 →
    ∃ s', exec .poll s = .next s' ∧ s'.response = some ⟨true, 0#32⟩ ∧
      (acceptsBit s.regs →
        s'.regs.ctr = 0#6 ∧ s'.regs.buf.getLsbD s.regs.ctr.toNat = bitValue s.regs ∧
        (∀ j, j ≠ s.regs.ctr.toNat → s'.regs.buf.getLsbD j = s.regs.buf.getLsbD j) ∧
        sameFields s.regs s'.regs ∧ sameResults s.regs s'.regs ∧ s'.regs.tp = s.regs.tp) ∧
      (¬acceptsBit s.regs → s'.regs.ctr = s.regs.ctr ∧ s'.regs.buf = s.regs.buf)

/-- R117: a POLL response with nonzero data is given exactly when the marker and `TP` are both set. -/
def Obligations.NonzeroPollDataIsTheOnlyAvailability : Prop :=
  ∀ s : State, ∃ s' d, exec .poll s = .next s' ∧ s'.response = some ⟨true, d⟩ ∧
    (d ≠ 0#32 ↔ s.regs.som ≠ 0#32 ∧ s.regs.tp = true)

/-- R71, R129, R74: the POLL that returns the marker processes no bit; the next one accepts the waiting bit and
resynchronises: the bit in slot 0 of an otherwise zero buffer, and the counter at 1. -/
def Obligations.TheMarkerPollLeavesTheBitWaiting : Prop :=
  ∀ s : State, s.regs.som ≠ 0#32 → s.regs.tp = true → 100 ≤ s.regs.thisBit.toNat → s.regs.thisBit.toNat < 220 →
    ∃ s1 s2, exec .poll s = .next s1 ∧ s1.regs.thisBit = s.regs.thisBit ∧ s1.regs.ctr = s.regs.ctr ∧
      exec .poll s1 = .next s2 ∧ s2.regs.thisBit = 0#32 ∧ s2.regs.ctr = 1#6 ∧
      s2.regs.buf = (if bitValue s.regs then 1#64 else 0#64) ∧ s2.regs.lastPulseStart = s.regs.pulseStart

/-- R128 (b): when an EDGE_OFF comes before any POLL accepted the waiting pulse and its gap, measured from the older
`LAST_PULSE_START`, is above 1700, the POLL that accepts the earlier pulse resynchronises and records the newer start. -/
def Obligations.AMissedPollResynchronisesSpuriously : Prop :=
  ∀ (s : State) (now : Ms), s.regs.tp = false → 100 ≤ s.regs.thisBit.toNat → s.regs.thisBit.toNat < 220 →
    1700 < (now - s.regs.lastPulseStart).toNat → now ≠ 0#32 →
    ∃ s1 s2, exec (.edgeOff now) s = .next s1 ∧ s1.regs.som = now ∧ exec .poll s1 = .next s2 ∧
      s2.regs.ctr = 1#6 ∧ s2.regs.buf = (if bitValue s.regs then 1#64 else 0#64) ∧
      s2.regs.lastPulseStart = now

/-! ### Frame decoder and BCD conversions -/

/-- R89, R90: every decoder output is its run of slots, least significant bit first, and the decode writes nothing else. -/
def Obligations.DecodedFieldsAreTheirSlots : Prop :=
  ∀ r : Regs,
    (∀ k, k < 7 → (decodeFrame r).minBcd.getLsbD k = r.buf.getLsbD (21 + k)) ∧
    (∀ k, k < 6 → (decodeFrame r).hourBcd.getLsbD k = r.buf.getLsbD (29 + k)) ∧
    (∀ k, k < 6 → (decodeFrame r).dayBcd.getLsbD k = r.buf.getLsbD (36 + k)) ∧
    (∀ k, k < 5 → (decodeFrame r).monthBcd.getLsbD k = r.buf.getLsbD (45 + k)) ∧
    (∀ k, k < 8 → (decodeFrame r).yearBcd.getLsbD k = r.buf.getLsbD (50 + k)) ∧
    (∀ k, k < 5 → (decodeFrame r).flags.getLsbD k = r.buf.getLsbD (15 + k)) ∧
    (∀ k, k < 14 → (decodeFrame r).civil.getLsbD k = r.buf.getLsbD (1 + k)) ∧
    decodeFrame r = { r with
      minBcd := (decodeFrame r).minBcd, hourBcd := (decodeFrame r).hourBcd, dayBcd := (decodeFrame r).dayBcd,
      monthBcd := (decodeFrame r).monthBcd, yearBcd := (decodeFrame r).yearBcd, flags := (decodeFrame r).flags,
      civil := (decodeFrame r).civil, perr := (decodeFrame r).perr }

/-- R92: a channel reports a mismatch exactly when its guarded slots and its parity slot hold an odd number of ones. -/
def Obligations.ParityChannelsReportOddCounts : Prop :=
  ∀ buf : Frame,
    ((parityMask buf).getLsbD 0 = true ↔ ((List.range 8).countP fun k => buf.getLsbD (21 + k)) % 2 = 1) ∧
    ((parityMask buf).getLsbD 1 = true ↔ ((List.range 7).countP fun k => buf.getLsbD (29 + k)) % 2 = 1) ∧
    ((parityMask buf).getLsbD 2 = true ↔ ((List.range 23).countP fun k => buf.getLsbD (36 + k)) % 2 = 1)

/-- R93: one flipped slot flips exactly its group's bit of the mask, and a slot outside the groups none. -/
def Obligations.OneFlippedSlotFlipsItsGroupsBit : Prop :=
  ∀ (buf : Frame) (i : Nat), i < 64 →
    parityMask (buf ^^^ (1#64 <<< i)) = parityMask buf ^^^
      (if 21 ≤ i ∧ i ≤ 28 then 1#3 else if 29 ≤ i ∧ i ≤ 35 then 2#3 else if 36 ≤ i ∧ i ≤ 58 then 4#3 else 0#3)

/-- R98: B2D in full: its words, its result for every operand, nothing written. -/
def Obligations.B2dConvertsEveryCode : Prop :=
  (∀ w : ReqWord, w &&& 0xFFFFFFF00#36 = 0x500000000#36 ↔ decode w = .ok (.b2d (w.extractLsb' 0 8))) ∧
  ∀ (v : BitVec 8) (s : State), exec (.b2d v) s =
    .next { s with response := some ⟨true, BitVec.ofNat 32 (v.toNat / 16 * 10 + v.toNat % 16)⟩ }

/-- R99: D2B in full: its words, its result for every operand, nothing written. -/
def Obligations.D2bConvertsEveryNumber : Prop :=
  (∀ w : ReqWord, w &&& 0xFFFFFFF00#36 = 0x600000000#36 ↔ decode w = .ok (.d2b (w.extractLsb' 0 8))) ∧
  ∀ (v : BitVec 8) (s : State), exec (.d2b v) s =
    .next { s with response := some ⟨true, BitVec.ofNat 32 (v.toNat / 10 * 16 + v.toNat % 10)⟩ }

/-- R97: the conversions are inverse on two-digit codes and on 0..99, and not on 0x1A. -/
def Obligations.BcdConversionsRoundTrip : Prop :=
  (∀ v : BitVec 8, v.toNat / 16 ≤ 9 → v.toNat % 16 ≤ 9 → decToBcd (BitVec.ofNat 8 (bcdToDec v)) = v.toNat) ∧
  (∀ d : BitVec 8, d.toNat ≤ 99 → bcdToDec (BitVec.ofNat 8 (decToBcd d)) = d.toNat) ∧
  decToBcd (BitVec.ofNat 8 (bcdToDec 0x1A#8)) = 0x20

/-! ### Timestamp builder -/

/-- R103, R102: the offsets between the three timestamps, modulo 2^32, whatever `MakeTime` is. -/
def Obligations.TimestampsStandInTheirOffsets : Prop :=
  ∀ (mt : Config.MakeTime) (r : Regs),
    (buildWith mt r).localTs - (buildWith mt r).regionalTs = 3600#32 ∧
    (buildWith mt r).localTs - (buildWith mt r).utcTs = (if r.flags.getLsbD 2 then 7200#32 else 3600#32) ∧
    ((buildWith mt r).localTs.toNat < 3600 →
      (buildWith mt r).regionalTs.toNat = (buildWith mt r).localTs.toNat + 2 ^ 32 - 3600) ∧
    ((buildWith mt r).localTs.toNat < 7200 → r.flags.getLsbD 2 = true →
      (buildWith mt r).utcTs.toNat = (buildWith mt r).localTs.toNat + 2 ^ 32 - 7200)

/-- R103 under the named property `MakeTimeCivil` of R100 (general knowledge by the spec's own word): for a real date of a
DCF77 year no offset wraps. -/
def Obligations.RealDatesDoNotWrap : Prop :=
  ∀ (mt : Config.MakeTime) (r : Regs), MakeTimeCivil mt → bcdToDec r.yearBcd ≤ 99 →
    realInstant 0#8 (bcdArg (r.minBcd.zeroExtend 8)) (bcdArg (r.hourBcd.zeroExtend 8))
      (bcdArg (r.dayBcd.zeroExtend 8)) (bcdArg (r.monthBcd.zeroExtend 8)) (yearArg r.yearBcd) →
    946684800 ≤ (buildWith mt r).localTs.toNat ∧
    (buildWith mt r).regionalTs.toNat = (buildWith mt r).localTs.toNat - 3600 ∧
    (buildWith mt r).utcTs.toNat =
      (buildWith mt r).localTs.toNat - (if r.flags.getLsbD 2 then 7200 else 3600)

/-- R104, R102: of the flags only Z1 reaches the timestamps, and nothing but it and the five fields does. -/
def Obligations.OnlyFieldsAndZ1ReachTheTimestamps : Prop :=
  ∀ (mt : Config.MakeTime) (r r' : Regs),
    r.minBcd = r'.minBcd → r.hourBcd = r'.hourBcd → r.dayBcd = r'.dayBcd → r.monthBcd = r'.monthBcd →
    r.yearBcd = r'.yearBcd → r.flags.getLsbD 2 = r'.flags.getLsbD 2 →
    (buildWith mt r).localTs = (buildWith mt r').localTs ∧
    (buildWith mt r).regionalTs = (buildWith mt r').regionalTs ∧
    (buildWith mt r).utcTs = (buildWith mt r').utcTs

/-! ### Host access -/

/-- R106, R107: READ of each of the nineteen numbers returns its register and of every other number the error response;
READ writes nothing. Its words are those of its mask and match. -/
def Obligations.ReadReturnsTheRegisterMap : Prop :=
  (∀ w : ReqWord, w &&& 0xFFFFFFF00#36 = 0x400000000#36 ↔ decode w = .ok (.read (w.extractLsb' 0 8))) ∧
  ∀ s : State,
    let answer : Bool → BitVec 32 → Host.Outcome State Fault Refusal :=
      fun ok d => .next { s with response := some ⟨ok, d⟩ }
    exec (.read 0x00#8) s = answer true (s.regs.ctr.zeroExtend 32) ∧
    exec (.read 0x01#8) s = answer true (BitVec.ofNat 32 (s.regs.buf.toNat % 2 ^ 32)) ∧
    exec (.read 0x02#8) s = answer true (BitVec.ofNat 32 (s.regs.buf.toNat / 2 ^ 32)) ∧
    exec (.read 0x03#8) s = answer true s.regs.pulseStart ∧
    exec (.read 0x04#8) s = answer true s.regs.lastPulseStart ∧
    exec (.read 0x05#8) s = answer true s.regs.som ∧
    exec (.read 0x06#8) s = answer true s.regs.thisBit ∧
    exec (.read 0x07#8) s = answer true
      (BitVec.ofNat 32 (s.regs.tp.toNat + 2 * s.regs.sync.toNat + 4 * s.regs.ind.toNat + 8 * s.regs.indOut.toNat)) ∧
    exec (.read 0x08#8) s = answer true (s.regs.perr.zeroExtend 32) ∧
    exec (.read 0x09#8) s = answer true (s.regs.minBcd.zeroExtend 32) ∧
    exec (.read 0x0A#8) s = answer true (s.regs.hourBcd.zeroExtend 32) ∧
    exec (.read 0x0B#8) s = answer true (s.regs.dayBcd.zeroExtend 32) ∧
    exec (.read 0x0C#8) s = answer true (s.regs.monthBcd.zeroExtend 32) ∧
    exec (.read 0x0D#8) s = answer true (s.regs.yearBcd.zeroExtend 32) ∧
    exec (.read 0x0E#8) s = answer true (s.regs.flags.zeroExtend 32) ∧
    exec (.read 0x0F#8) s = answer true (s.regs.civil.zeroExtend 32) ∧
    exec (.read 0x10#8) s = answer true s.regs.localTs ∧
    exec (.read 0x11#8) s = answer true s.regs.regionalTs ∧
    exec (.read 0x12#8) s = answer true s.regs.utcTs ∧
    ∀ index : BitVec 8, 0x12 < index.toNat → exec (.read index) s = answer false 0#32

/-- R108: NOP in full: only the all-zero word, no register written, response `{1, 0}`. -/
def Obligations.NopIsTheAllZeroWordAndWritesNothing : Prop :=
  (∀ w : ReqWord, decode w = .ok .nop ↔ w = 0x000000000#36) ∧
  ∀ s : State, exec .nop s = .next { s with response := some ⟨true, 0#32⟩ }

/-! ### Invariants and whole-machine rules -/

/-- R85, R79, R103: the reset state meets the three invariants. -/
def Obligations.ResetMeetsTheInvariants : Prop :=
  counterInRange State.reset.regs ∧ syncMatchesSlot State.reset.regs ∧ timestampsConsistent State.reset.regs

/-- R85: every step keeps the counter in 0..62 and slot 63 unwritten. -/
def Obligations.EveryStepKeepsTheCounterInRange : Prop :=
  ∀ s s' : State, counterInRange s.regs → step s = .next s' → counterInRange s'.regs

/-- R79: every step keeps `SYNC` equal to slot 20 of the buffer while the counter is past it, so that the check of step 3i
and the source's check of index 20 agree. -/
def Obligations.EveryStepKeepsSyncEqualToSlot20 : Prop :=
  ∀ s s' : State, syncMatchesSlot s.regs → step s = .next s' → syncMatchesSlot s'.regs

/-- R103, R76: every step keeps the timestamps all clear or in the builder's offsets. -/
def Obligations.EveryStepKeepsTheTimestampsConsistent : Prop :=
  ∀ s s' : State, timestampsConsistent s.regs → step s = .next s' → timestampsConsistent s'.regs

/-- R29, R82, R105: `TP` rises only in a step that fills slot 58 with `SYNC` = 1 and clean parity, and then the timestamps
of that frame are built. -/
def Obligations.TpRisesOnlyOnACleanDecode : Prop :=
  ∀ s s' : State, step s = .next s' → s.regs.tp = false → s'.regs.tp = true →
    acceptsBit s.regs ∧ s.regs.som = 0#32 ∧ s.regs.ctr = 58#6 ∧ s'.regs.ctr = 59#6 ∧ s.regs.sync = true ∧
    s'.regs.sync = true ∧ s'.regs.perr = 0#3 ∧ parityMask s'.regs.buf = 0#3 ∧
    s'.regs.localTs - s'.regs.regionalTs = 3600#32 ∧
    s'.regs.localTs - s'.regs.utcTs = (if s'.regs.flags.getLsbD 2 then 7200#32 else 3600#32)

/-- R29, R74: `TP` falls only when a POLL returns the marker, or on RESET. The absent response after a RESET is the model's
choice (assumption 3). -/
def Obligations.TpFallsOnlyWhenAnnouncedOrReset : Prop :=
  ∀ s s' : State, step s = .next s' → s.regs.tp = true → s'.regs.tp = false →
    (s.regs.som ≠ 0#32 ∧ s'.response = some ⟨true, s.regs.som⟩ ∧ s'.regs = { s.regs with tp := false }) ∨
    (s'.regs = State.reset.regs ∧ s'.response = none)

/-- R130, R76, R82: `PERR` and the timestamps change only on RESET, on the bit of slot 1, which clears them, and on a
decode. -/
def Obligations.ResultsChangeOnlyAtSlotOneDecodeOrReset : Prop :=
  ∀ s s' : State, step s = .next s' →
    sameResults s.regs s'.regs ∨ s'.regs = State.reset.regs ∨
    (acceptsBit s.regs ∧ nextSlot s.regs = 1 ∧ s'.regs.perr = 0#3 ∧ s'.regs.localTs = 0#32 ∧
      s'.regs.regionalTs = 0#32 ∧ s'.regs.utcTs = 0#32) ∨
    (acceptsBit s.regs ∧ nextSlot s.regs = 58 ∧ s.regs.sync = true)

/-- R75, R22: `LAST_PULSE_START` changes only on RESET and when a POLL accepts a bit, and then to `PULSE_START`. -/
def Obligations.LastPulseStartMovesOnlyWithAnAcceptedBit : Prop :=
  ∀ s s' : State, step s = .next s' →
    s'.regs.lastPulseStart = s.regs.lastPulseStart ∨ s'.regs = State.reset.regs ∨
    (acceptsBit s.regs ∧ s'.regs.lastPulseStart = s.regs.pulseStart)

/-- R88, R82, R74 (the source's property S1 and S7): one minute of nominal pulses after a minute gap, whatever its 59 bits,
leaves exactly those bits in the buffer; with the sync bit 1 they are decoded, and published exactly when parity is
clean; with the sync bit 0 nothing is decoded. -/
def Obligations.AMinuteOfPulsesIsCollectedAndDecoded : Prop :=
  ∀ (s : State) (t : Nat) (frame : Frame),
    s.regs.tp = false → BitVec.ofNat 32 t ≠ 0#32 →
    1700 < (BitVec.ofNat 32 t - s.regs.lastPulseStart).toNat →
    ∃ s', execAll (frameRequests t frame 59) s = .next s' ∧ s'.regs.ctr = 59#6 ∧
      (∀ j, j < 64 → s'.regs.buf.getLsbD j = (decide (j < 59) && frame.getLsbD j)) ∧
      s'.regs.sync = frame.getLsbD 20 ∧
      (frame.getLsbD 20 = true →
        s'.regs.minBcd = frame.extractLsb' 21 7 ∧ s'.regs.hourBcd = frame.extractLsb' 29 6 ∧
        s'.regs.dayBcd = frame.extractLsb' 36 6 ∧ s'.regs.monthBcd = frame.extractLsb' 45 5 ∧
        s'.regs.yearBcd = frame.extractLsb' 50 8 ∧ s'.regs.flags = frame.extractLsb' 15 5 ∧
        s'.regs.civil = frame.extractLsb' 1 14 ∧ s'.regs.perr = parityMask frame ∧
        (s'.regs.tp = true ↔ parityMask frame = 0#3)) ∧
      (frame.getLsbD 20 = false →
        sameFields s.regs s'.regs ∧ s'.regs.perr = 0#3 ∧ s'.regs.tp = false ∧ s'.regs.localTs = 0#32 ∧
        s'.regs.regionalTs = 0#32 ∧ s'.regs.utcTs = 0#32)

/-! ### Textual form -/

/-- R61: the two pseudo-requests expand into EDGE_OFF, EDGE_ON and POLL. -/
def Obligations.PseudoRequestsExpand : Prop :=
  (∀ t d : Nat, t < 2 ^ 32 → d < 2 ^ 32 →
    assembleLine (.pulse t d) =
      some [BitVec.ofNat 36 (0x200000000 + t), BitVec.ofNat 36 (0x300000000 + (t + d) % 2 ^ 32), 0x100000000#36]) ∧
  (∀ t b : Nat, t < 2 ^ 32 → b < 2 → assembleLine (.bit t b) = assembleLine (.pulse t (100 + 100 * b)))

/-- R60, R61: the assembler refuses every operand out of range, those of the pseudo-requests among them, and has no way to
write an ILLEGAL word. That the length of PULSE must be below 2^32 is the model's choice (assumption 7). -/
def Obligations.AssemblerWritesOnlyRequests : Prop :=
  (∀ (text : List Char) (ws : List ReqWord), assembleText text = some ws → ∀ w ∈ ws, ∃ i, decode w = .ok i) ∧
  (∀ t : Nat, 2 ^ 32 ≤ t → assembleLine (.edgeOff t) = none ∧ assembleLine (.edgeOn t) = none ∧
    (∀ d, assembleLine (.pulse t d) = none) ∧ (∀ b, assembleLine (.bit t b) = none)) ∧
  (∀ n : Nat, 256 ≤ n → assembleLine (.read n) = none ∧ assembleLine (.b2d n) = none ∧ assembleLine (.d2b n) = none) ∧
  (∀ t b : Nat, 2 ≤ b → assembleLine (.bit t b) = none) ∧
  (∀ t d : Nat, 2 ^ 32 ≤ d → assembleLine (.pulse t d) = none)

/-- R61, R77, R78: the requests of `BIT t, b` write `b` to the slot the counter names, or to slot 0 after a minute gap. -/
def Obligations.ABitLineWritesItsBit : Prop :=
  ∀ (s : State) (t b : Nat), s.regs.tp = false → t < 2 ^ 32 → b < 2 →
    ∃ s', execAll (lineRequests (.bit t b)) s = .next s' ∧
      s'.regs.lastPulseStart = BitVec.ofNat 32 t ∧ s'.regs.thisBit = 0#32 ∧
      s'.regs.buf.getLsbD
          (if 1700 < (BitVec.ofNat 32 t - s.regs.lastPulseStart).toNat ∧ t ≠ 0 then 0 else s.regs.ctr.toNat) =
        decide (b = 1)
end

