-- ==== Sys2Proof/Laws/Calendar.lean ====
section
/-! SUPPORT. The civil calendar of `MakeTimeCivil` fits 32 bits, so that property has a witness; and a bound from below for
the years from 2000. -/

namespace Sys2Proof.Laws

open Sys2Proof.Machine

theorem daysToYear_mono {m n : Nat} (h : m ≤ n) : daysToYear m ≤ daysToYear n := by
  induction n, h using Nat.le_induction with
  | base => exact Nat.le_refl _
  | succ n _ ih => exact Nat.le_trans ih (Nat.le_add_right _ _)

theorem daysInMonth_le (year month : Nat) : daysInMonth year month ≤ 31 := by
  unfold daysInMonth
  split
  · split <;> omega
  all_goals omega

theorem daysToMonth_le (year m : Nat) : daysToMonth year m ≤ 31 * m := by
  induction m with
  | zero => exact Nat.le_refl _
  | succ m ih =>
    have := daysInMonth_le year (m + 1)
    simp only [daysToMonth]
    omega

/-- The days to 2000 and later years (R103: 946684800 seconds are 10957 days). -/
theorem daysToYear_from_2000 {n : Nat} (h : 30 ≤ n) : 10957 ≤ daysToYear n :=
  Nat.le_trans (by decide) (daysToYear_mono h)

theorem daysToYear_135 : daysToYear 135 ≤ 49308 := by
  simp only [daysToYear, daysInYear, isLeap]
  decide

/-- The civil seconds of a real instant fit 32 bits. -/
theorem civilSeconds_lt (sec min hour day month years : BitVec 8)
    (h : realInstant sec min hour day month years) : civilSeconds sec min hour day month years < 2 ^ 32 := by
  obtain ⟨h1, h2, h3, h4, h5, h6, h7, h8⟩ := h
  have y := Nat.le_trans (daysToYear_mono (show years.toNat ≤ 135 by omega)) daysToYear_135
  have m := daysToMonth_le (1970 + years.toNat) (month.toNat - 1)
  have d := daysInMonth_le (1970 + years.toNat) month.toNat
  unfold civilSeconds
  omega

/-- A calendar function that has the named property: `MakeTimeCivil` is not an empty premise. -/
def civilMakeTime : Config.MakeTime := fun sec min hour day month years =>
  BitVec.ofNat 32 (civilSeconds sec min hour day month years)

theorem civilMakeTime_is_civil : MakeTimeCivil civilMakeTime := by
  intro sec min hour day month years h
  simp only [civilMakeTime, BitVec.toNat_ofNat]
  exact Nat.mod_eq_of_lt (civilSeconds_lt _ _ _ _ _ _ h)

end Sys2Proof.Laws
end

