-- ==== Sys2Proof/Laws/State.lean ====
section
/-! SUPPORT. What each update of the registers and of the state does to each field, so that no later proof unfolds one. For
every update `f`: `f_keeps` lists the fields it leaves alone, and `f_<field>` gives each field it writes. -/

namespace Sys2Proof.Laws

open Sys2Proof.Machine

/-- Fields that EDGE_OFF leaves alone. -/
@[simp] theorem sampleOff_keeps (now : Ms) (r : Regs) :
    (sampleOff now r).lastPulseStart = r.lastPulseStart ∧ (sampleOff now r).thisBit = r.thisBit ∧
    (sampleOff now r).ctr = r.ctr ∧ (sampleOff now r).buf = r.buf ∧ (sampleOff now r).sync = r.sync ∧
    (sampleOff now r).tp = r.tp ∧ (sampleOff now r).indOut = r.indOut ∧ (sampleOff now r).perr = r.perr ∧
    (sampleOff now r).minBcd = r.minBcd ∧ (sampleOff now r).hourBcd = r.hourBcd ∧
    (sampleOff now r).dayBcd = r.dayBcd ∧ (sampleOff now r).monthBcd = r.monthBcd ∧
    (sampleOff now r).yearBcd = r.yearBcd ∧ (sampleOff now r).flags = r.flags ∧ (sampleOff now r).civil = r.civil ∧
    (sampleOff now r).localTs = r.localTs ∧ (sampleOff now r).regionalTs = r.regionalTs ∧
    (sampleOff now r).utcTs = r.utcTs := by
  refine ⟨?_, ?_, ?_, ?_, ?_, ?_, ?_, ?_, ?_, ?_, ?_, ?_, ?_, ?_, ?_, ?_, ?_, ?_⟩ <;> rfl

@[simp] theorem sampleOff_pulseStart (now : Ms) (r : Regs) : (sampleOff now r).pulseStart = now := rfl

@[simp] theorem sampleOff_som (now : Ms) (r : Regs) : (sampleOff now r).som = if gapDetect now r.lastPulseStart then now else 0#32 := rfl

@[simp] theorem sampleOff_ind (now : Ms) (r : Regs) : (sampleOff now r).ind = true := rfl

/-- Fields that EDGE_ON leaves alone. -/
@[simp] theorem sampleOn_keeps (now : Ms) (r : Regs) :
    (sampleOn now r).pulseStart = r.pulseStart ∧ (sampleOn now r).lastPulseStart = r.lastPulseStart ∧
    (sampleOn now r).som = r.som ∧ (sampleOn now r).ctr = r.ctr ∧ (sampleOn now r).buf = r.buf ∧
    (sampleOn now r).sync = r.sync ∧ (sampleOn now r).tp = r.tp ∧ (sampleOn now r).indOut = r.indOut ∧
    (sampleOn now r).perr = r.perr ∧ (sampleOn now r).minBcd = r.minBcd ∧ (sampleOn now r).hourBcd = r.hourBcd ∧
    (sampleOn now r).dayBcd = r.dayBcd ∧ (sampleOn now r).monthBcd = r.monthBcd ∧
    (sampleOn now r).yearBcd = r.yearBcd ∧ (sampleOn now r).flags = r.flags ∧ (sampleOn now r).civil = r.civil ∧
    (sampleOn now r).localTs = r.localTs ∧ (sampleOn now r).regionalTs = r.regionalTs ∧
    (sampleOn now r).utcTs = r.utcTs := by
  refine ⟨?_, ?_, ?_, ?_, ?_, ?_, ?_, ?_, ?_, ?_, ?_, ?_, ?_, ?_, ?_, ?_, ?_, ?_, ?_⟩ <;> rfl

@[simp] theorem sampleOn_thisBit (now : Ms) (r : Regs) : (sampleOn now r).thisBit = duration now r.pulseStart := rfl

@[simp] theorem sampleOn_ind (now : Ms) (r : Regs) : (sampleOn now r).ind = false := rfl

/-- Fields that POLL step 2 leaves alone. -/
@[simp] theorem mirrorInd_keeps (r : Regs) :
    (mirrorInd r).pulseStart = r.pulseStart ∧ (mirrorInd r).lastPulseStart = r.lastPulseStart ∧
    (mirrorInd r).som = r.som ∧ (mirrorInd r).thisBit = r.thisBit ∧ (mirrorInd r).ind = r.ind ∧
    (mirrorInd r).ctr = r.ctr ∧ (mirrorInd r).buf = r.buf ∧ (mirrorInd r).sync = r.sync ∧ (mirrorInd r).tp = r.tp ∧
    (mirrorInd r).perr = r.perr ∧ (mirrorInd r).minBcd = r.minBcd ∧ (mirrorInd r).hourBcd = r.hourBcd ∧
    (mirrorInd r).dayBcd = r.dayBcd ∧ (mirrorInd r).monthBcd = r.monthBcd ∧ (mirrorInd r).yearBcd = r.yearBcd ∧
    (mirrorInd r).flags = r.flags ∧ (mirrorInd r).civil = r.civil ∧ (mirrorInd r).localTs = r.localTs ∧
    (mirrorInd r).regionalTs = r.regionalTs ∧ (mirrorInd r).utcTs = r.utcTs := by
  refine ⟨?_, ?_, ?_, ?_, ?_, ?_, ?_, ?_, ?_, ?_, ?_, ?_, ?_, ?_, ?_, ?_, ?_, ?_, ?_, ?_⟩ <;> rfl

@[simp] theorem mirrorInd_indOut (r : Regs) : (mirrorInd r).indOut = r.ind := rfl

/-- Fields that POLL step 3b leaves alone. -/
@[simp] theorem recordStart_keeps (r : Regs) :
    (recordStart r).pulseStart = r.pulseStart ∧ (recordStart r).som = r.som ∧ (recordStart r).thisBit = r.thisBit ∧
    (recordStart r).ind = r.ind ∧ (recordStart r).ctr = r.ctr ∧ (recordStart r).buf = r.buf ∧
    (recordStart r).sync = r.sync ∧ (recordStart r).tp = r.tp ∧ (recordStart r).indOut = r.indOut ∧
    (recordStart r).perr = r.perr ∧ (recordStart r).minBcd = r.minBcd ∧ (recordStart r).hourBcd = r.hourBcd ∧
    (recordStart r).dayBcd = r.dayBcd ∧ (recordStart r).monthBcd = r.monthBcd ∧ (recordStart r).yearBcd = r.yearBcd ∧
    (recordStart r).flags = r.flags ∧ (recordStart r).civil = r.civil ∧ (recordStart r).localTs = r.localTs ∧
    (recordStart r).regionalTs = r.regionalTs ∧ (recordStart r).utcTs = r.utcTs := by
  refine ⟨?_, ?_, ?_, ?_, ?_, ?_, ?_, ?_, ?_, ?_, ?_, ?_, ?_, ?_, ?_, ?_, ?_, ?_, ?_, ?_⟩ <;> rfl

@[simp] theorem recordStart_lastPulseStart (r : Regs) : (recordStart r).lastPulseStart = r.pulseStart := rfl

/-- Fields that POLL step 3e leaves alone. -/
@[simp] theorem writeSlot_keeps (b : Bool) (r : Regs) :
    (writeSlot b r).pulseStart = r.pulseStart ∧ (writeSlot b r).lastPulseStart = r.lastPulseStart ∧
    (writeSlot b r).som = r.som ∧ (writeSlot b r).thisBit = r.thisBit ∧ (writeSlot b r).ind = r.ind ∧
    (writeSlot b r).ctr = r.ctr ∧ (writeSlot b r).sync = r.sync ∧ (writeSlot b r).tp = r.tp ∧
    (writeSlot b r).indOut = r.indOut ∧ (writeSlot b r).perr = r.perr ∧ (writeSlot b r).minBcd = r.minBcd ∧
    (writeSlot b r).hourBcd = r.hourBcd ∧ (writeSlot b r).dayBcd = r.dayBcd ∧ (writeSlot b r).monthBcd = r.monthBcd ∧
    (writeSlot b r).yearBcd = r.yearBcd ∧ (writeSlot b r).flags = r.flags ∧ (writeSlot b r).civil = r.civil ∧
    (writeSlot b r).localTs = r.localTs ∧ (writeSlot b r).regionalTs = r.regionalTs ∧
    (writeSlot b r).utcTs = r.utcTs := by
  refine ⟨?_, ?_, ?_, ?_, ?_, ?_, ?_, ?_, ?_, ?_, ?_, ?_, ?_, ?_, ?_, ?_, ?_, ?_, ?_, ?_⟩ <;> rfl

@[simp] theorem writeSlot_buf (b : Bool) (r : Regs) : (writeSlot b r).buf = memWrite r.buf r.ctr b := rfl

/-- Fields that POLL step 3h leaves alone. -/
@[simp] theorem consume_keeps (r : Regs) :
    (consume r).pulseStart = r.pulseStart ∧ (consume r).lastPulseStart = r.lastPulseStart ∧ (consume r).som = r.som ∧
    (consume r).ind = r.ind ∧ (consume r).ctr = r.ctr ∧ (consume r).buf = r.buf ∧ (consume r).sync = r.sync ∧
    (consume r).tp = r.tp ∧ (consume r).indOut = r.indOut ∧ (consume r).perr = r.perr ∧
    (consume r).minBcd = r.minBcd ∧ (consume r).hourBcd = r.hourBcd ∧ (consume r).dayBcd = r.dayBcd ∧
    (consume r).monthBcd = r.monthBcd ∧ (consume r).yearBcd = r.yearBcd ∧ (consume r).flags = r.flags ∧
    (consume r).civil = r.civil ∧ (consume r).localTs = r.localTs ∧ (consume r).regionalTs = r.regionalTs ∧
    (consume r).utcTs = r.utcTs := by
  refine ⟨?_, ?_, ?_, ?_, ?_, ?_, ?_, ?_, ?_, ?_, ?_, ?_, ?_, ?_, ?_, ?_, ?_, ?_, ?_, ?_⟩ <;> rfl

@[simp] theorem consume_thisBit (r : Regs) : (consume r).thisBit = 0#32 := rfl

/-- Fields that publication leaves alone. -/
@[simp] theorem publish_keeps (r : Regs) :
    (publish r).pulseStart = r.pulseStart ∧ (publish r).lastPulseStart = r.lastPulseStart ∧ (publish r).som = r.som ∧
    (publish r).thisBit = r.thisBit ∧ (publish r).ind = r.ind ∧ (publish r).ctr = r.ctr ∧ (publish r).buf = r.buf ∧
    (publish r).sync = r.sync ∧ (publish r).indOut = r.indOut ∧ (publish r).perr = r.perr ∧
    (publish r).minBcd = r.minBcd ∧ (publish r).hourBcd = r.hourBcd ∧ (publish r).dayBcd = r.dayBcd ∧
    (publish r).monthBcd = r.monthBcd ∧ (publish r).yearBcd = r.yearBcd ∧ (publish r).flags = r.flags ∧
    (publish r).civil = r.civil ∧ (publish r).localTs = r.localTs ∧ (publish r).regionalTs = r.regionalTs ∧
    (publish r).utcTs = r.utcTs := by
  refine ⟨?_, ?_, ?_, ?_, ?_, ?_, ?_, ?_, ?_, ?_, ?_, ?_, ?_, ?_, ?_, ?_, ?_, ?_, ?_, ?_⟩ <;> rfl

@[simp] theorem publish_tp (r : Regs) : (publish r).tp = true := rfl

/-- Fields that Decode() leaves alone. -/
@[simp] theorem decodeFrame_keeps (r : Regs) :
    (decodeFrame r).pulseStart = r.pulseStart ∧ (decodeFrame r).lastPulseStart = r.lastPulseStart ∧
    (decodeFrame r).som = r.som ∧ (decodeFrame r).thisBit = r.thisBit ∧ (decodeFrame r).ind = r.ind ∧
    (decodeFrame r).ctr = r.ctr ∧ (decodeFrame r).buf = r.buf ∧ (decodeFrame r).sync = r.sync ∧
    (decodeFrame r).tp = r.tp ∧ (decodeFrame r).indOut = r.indOut ∧ (decodeFrame r).localTs = r.localTs ∧
    (decodeFrame r).regionalTs = r.regionalTs ∧ (decodeFrame r).utcTs = r.utcTs := by
  refine ⟨?_, ?_, ?_, ?_, ?_, ?_, ?_, ?_, ?_, ?_, ?_, ?_, ?_⟩ <;> rfl

@[simp] theorem decodeFrame_minBcd (r : Regs) : (decodeFrame r).minBcd = slice r.buf 21 7 := rfl

@[simp] theorem decodeFrame_hourBcd (r : Regs) : (decodeFrame r).hourBcd = slice r.buf 29 6 := rfl

@[simp] theorem decodeFrame_dayBcd (r : Regs) : (decodeFrame r).dayBcd = slice r.buf 36 6 := rfl

@[simp] theorem decodeFrame_monthBcd (r : Regs) : (decodeFrame r).monthBcd = slice r.buf 45 5 := rfl

@[simp] theorem decodeFrame_yearBcd (r : Regs) : (decodeFrame r).yearBcd = slice r.buf 50 8 := rfl

@[simp] theorem decodeFrame_flags (r : Regs) : (decodeFrame r).flags = packFlags r.buf := rfl

@[simp] theorem decodeFrame_civil (r : Regs) : (decodeFrame r).civil = slice r.buf 1 14 := rfl

@[simp] theorem decodeFrame_perr (r : Regs) : (decodeFrame r).perr = parityMask r.buf := rfl

/-- Fields that Build() leaves alone. -/
@[simp] theorem buildWith_keeps (mt : Config.MakeTime) (r : Regs) :
    (buildWith mt r).pulseStart = r.pulseStart ∧ (buildWith mt r).lastPulseStart = r.lastPulseStart ∧
    (buildWith mt r).som = r.som ∧ (buildWith mt r).thisBit = r.thisBit ∧ (buildWith mt r).ind = r.ind ∧
    (buildWith mt r).ctr = r.ctr ∧ (buildWith mt r).buf = r.buf ∧ (buildWith mt r).sync = r.sync ∧
    (buildWith mt r).tp = r.tp ∧ (buildWith mt r).indOut = r.indOut ∧ (buildWith mt r).perr = r.perr ∧
    (buildWith mt r).minBcd = r.minBcd ∧ (buildWith mt r).hourBcd = r.hourBcd ∧ (buildWith mt r).dayBcd = r.dayBcd ∧
    (buildWith mt r).monthBcd = r.monthBcd ∧ (buildWith mt r).yearBcd = r.yearBcd ∧ (buildWith mt r).flags = r.flags ∧
    (buildWith mt r).civil = r.civil := by
  refine ⟨?_, ?_, ?_, ?_, ?_, ?_, ?_, ?_, ?_, ?_, ?_, ?_, ?_, ?_, ?_, ?_, ?_, ?_⟩ <;> rfl

@[simp] theorem buildWith_localTs (mt : Config.MakeTime) (r : Regs) : (buildWith mt r).localTs = localTime mt r := rfl

@[simp] theorem buildWith_regionalTs (mt : Config.MakeTime) (r : Regs) : (buildWith mt r).regionalTs = localTime mt r - 3600#32 := rfl

@[simp] theorem buildWith_utcTs (mt : Config.MakeTime) (r : Regs) : (buildWith mt r).utcTs = localTime mt r - utcOffset r.flags := rfl

/-- Fields that POLL step 3a leaves alone. -/
@[simp] theorem resync_keeps (r : Regs) :
    (resync r).pulseStart = r.pulseStart ∧ (resync r).lastPulseStart = r.lastPulseStart ∧ (resync r).som = r.som ∧
    (resync r).thisBit = r.thisBit ∧ (resync r).ind = r.ind ∧ (resync r).sync = r.sync ∧
    (resync r).indOut = r.indOut ∧ (resync r).perr = r.perr ∧ (resync r).minBcd = r.minBcd ∧
    (resync r).hourBcd = r.hourBcd ∧ (resync r).dayBcd = r.dayBcd ∧ (resync r).monthBcd = r.monthBcd ∧
    (resync r).yearBcd = r.yearBcd ∧ (resync r).flags = r.flags ∧ (resync r).civil = r.civil ∧
    (resync r).localTs = r.localTs ∧ (resync r).regionalTs = r.regionalTs ∧ (resync r).utcTs = r.utcTs := by
  unfold resync
  split <;> simp

@[simp] theorem resync_ctr (r : Regs) :
    (resync r).ctr = if somSet r then 0#6 else r.ctr := by
  unfold resync
  split <;> simp_all

@[simp] theorem resync_tp (r : Regs) :
    (resync r).tp = if somSet r then false else r.tp := by
  unfold resync
  split <;> simp_all

@[simp] theorem resync_buf (r : Regs) :
    (resync r).buf = if somSet r then 0#64 else r.buf := by
  unfold resync
  split <;> simp_all [bufClear]

/-- Fields that POLL step 3c leaves alone. -/
@[simp] theorem clearStale_keeps (r : Regs) :
    (clearStale r).pulseStart = r.pulseStart ∧ (clearStale r).lastPulseStart = r.lastPulseStart ∧
    (clearStale r).som = r.som ∧ (clearStale r).thisBit = r.thisBit ∧ (clearStale r).ind = r.ind ∧
    (clearStale r).ctr = r.ctr ∧ (clearStale r).buf = r.buf ∧ (clearStale r).sync = r.sync ∧
    (clearStale r).tp = r.tp ∧ (clearStale r).indOut = r.indOut ∧ (clearStale r).minBcd = r.minBcd ∧
    (clearStale r).hourBcd = r.hourBcd ∧ (clearStale r).dayBcd = r.dayBcd ∧ (clearStale r).monthBcd = r.monthBcd ∧
    (clearStale r).yearBcd = r.yearBcd ∧ (clearStale r).flags = r.flags ∧ (clearStale r).civil = r.civil := by
  unfold clearStale
  split <;> simp

@[simp] theorem clearStale_perr (r : Regs) :
    (clearStale r).perr = if r.ctr.toNat = 1 then 0#3 else r.perr := by
  unfold clearStale
  split <;> simp_all

@[simp] theorem clearStale_localTs (r : Regs) :
    (clearStale r).localTs = if r.ctr.toNat = 1 then 0#32 else r.localTs := by
  unfold clearStale
  split <;> simp_all

@[simp] theorem clearStale_regionalTs (r : Regs) :
    (clearStale r).regionalTs = if r.ctr.toNat = 1 then 0#32 else r.regionalTs := by
  unfold clearStale
  split <;> simp_all

@[simp] theorem clearStale_utcTs (r : Regs) :
    (clearStale r).utcTs = if r.ctr.toNat = 1 then 0#32 else r.utcTs := by
  unfold clearStale
  split <;> simp_all

/-- Fields that POLL step 3f leaves alone. -/
@[simp] theorem captureSync_keeps (b : Bool) (r : Regs) :
    (captureSync b r).pulseStart = r.pulseStart ∧ (captureSync b r).lastPulseStart = r.lastPulseStart ∧
    (captureSync b r).som = r.som ∧ (captureSync b r).thisBit = r.thisBit ∧ (captureSync b r).ind = r.ind ∧
    (captureSync b r).ctr = r.ctr ∧ (captureSync b r).buf = r.buf ∧ (captureSync b r).tp = r.tp ∧
    (captureSync b r).indOut = r.indOut ∧ (captureSync b r).perr = r.perr ∧ (captureSync b r).minBcd = r.minBcd ∧
    (captureSync b r).hourBcd = r.hourBcd ∧ (captureSync b r).dayBcd = r.dayBcd ∧
    (captureSync b r).monthBcd = r.monthBcd ∧ (captureSync b r).yearBcd = r.yearBcd ∧
    (captureSync b r).flags = r.flags ∧ (captureSync b r).civil = r.civil ∧ (captureSync b r).localTs = r.localTs ∧
    (captureSync b r).regionalTs = r.regionalTs ∧ (captureSync b r).utcTs = r.utcTs := by
  unfold captureSync
  split <;> simp

@[simp] theorem captureSync_sync (b : Bool) (r : Regs) :
    (captureSync b r).sync = if r.ctr.toNat = 20 then b else r.sync := by
  unfold captureSync
  split <;> simp_all

/-- Fields that POLL step 3g leaves alone. -/
@[simp] theorem advanceCtr_keeps (r : Regs) :
    (advanceCtr r).pulseStart = r.pulseStart ∧ (advanceCtr r).lastPulseStart = r.lastPulseStart ∧
    (advanceCtr r).som = r.som ∧ (advanceCtr r).thisBit = r.thisBit ∧ (advanceCtr r).ind = r.ind ∧
    (advanceCtr r).buf = r.buf ∧ (advanceCtr r).sync = r.sync ∧ (advanceCtr r).tp = r.tp ∧
    (advanceCtr r).indOut = r.indOut ∧ (advanceCtr r).perr = r.perr ∧ (advanceCtr r).minBcd = r.minBcd ∧
    (advanceCtr r).hourBcd = r.hourBcd ∧ (advanceCtr r).dayBcd = r.dayBcd ∧ (advanceCtr r).monthBcd = r.monthBcd ∧
    (advanceCtr r).yearBcd = r.yearBcd ∧ (advanceCtr r).flags = r.flags ∧ (advanceCtr r).civil = r.civil ∧
    (advanceCtr r).localTs = r.localTs ∧ (advanceCtr r).regionalTs = r.regionalTs ∧
    (advanceCtr r).utcTs = r.utcTs := by
  unfold advanceCtr
  split <;> simp

@[simp] theorem advanceCtr_ctr (r : Regs) :
    (advanceCtr r).ctr = if 61 < r.ctr.toNat then 0#6 else r.ctr + 1#6 := by
  unfold advanceCtr
  split <;> simp_all

/-- Registers that agree field by field are equal. -/
theorem regs_ext (a b : Regs)
    (h : a.pulseStart = b.pulseStart ∧ a.lastPulseStart = b.lastPulseStart ∧ a.som = b.som ∧ a.thisBit = b.thisBit ∧
      a.ind = b.ind ∧ a.ctr = b.ctr ∧ a.buf = b.buf ∧ a.sync = b.sync ∧ a.tp = b.tp ∧ a.indOut = b.indOut ∧
      a.perr = b.perr ∧ a.minBcd = b.minBcd ∧ a.hourBcd = b.hourBcd ∧ a.dayBcd = b.dayBcd ∧
      a.monthBcd = b.monthBcd ∧ a.yearBcd = b.yearBcd ∧ a.flags = b.flags ∧ a.civil = b.civil ∧
      a.localTs = b.localTs ∧ a.regionalTs = b.regionalTs ∧ a.utcTs = b.utcTs) : a = b := by
  cases a
  cases b
  simpa using h

theorem build_eq (r : Regs) : build r = buildWith Config.makeTime r := rfl

/-- A response is always a next state that differs in the response alone. -/
@[simp] theorem respond_eq (ok : Bool) (data : BitVec 32) (s : State) :
    respond ok data s = .next { s with response := some { ok := ok, data := data } } := rfl

/-- An error response, whatever its reason, writes no register (R111). -/
@[simp] theorem raiseErr_eq (e : ErrReason) (s : State) :
    raiseErr e s = .next { s with response := some { ok := false, data := 0#32 } } := by
  cases e <;> rfl

@[simp] theorem resetBlock_regs (s : State) : (resetBlock s).regs = Regs.reset := rfl
@[simp] theorem resetBlock_response (s : State) : (resetBlock s).response = none := rfl
@[simp] theorem resetBlock_inputs (s : State) : (resetBlock s).inputs = s.inputs := rfl
@[simp] theorem resetBlock_arbCount (s : State) : (resetBlock s).arbCount = s.arbCount := rfl

@[simp] theorem presentWord_regs (w : ReqWord) (s : State) : (presentWord w s).regs = s.regs := rfl
@[simp] theorem presentWord_response (w : ReqWord) (s : State) : (presentWord w s).response = s.response := rfl
@[simp] theorem presentWord_inputs (w : ReqWord) (s : State) : (presentWord w s).inputs = .host w :: s.inputs := rfl
@[simp] theorem presentWord_arbCount (w : ReqWord) (s : State) : (presentWord w s).arbCount = s.arbCount := rfl

end Sys2Proof.Laws
end

