-- ==== Sys2Proof/Laws/Slots.lean ====
section
/-! SUPPORT. The slot space of the frame buffer: read after write, slices and the parity tree slot by slot. -/

namespace Sys2Proof.Laws

open Sys2Proof.Machine

theorem slot_lt (i : Slot) : i.toNat < 64 := i.isLt

/-- A write replaces its slot and leaves every other slot alone (R40). -/
theorem getLsbD_memWrite (buf : Frame) (i : Slot) (b : Bool) (j : Nat) :
    (memWrite buf i b).getLsbD j = if j = i.toNat then b else buf.getLsbD j := by
  have hi := slot_lt i
  by_cases hj : j < 64
  · by_cases h : j = i.toNat
    · subst h
      simp [memWrite, hj]
    · rcases Nat.lt_or_gt_of_ne h with h' | h'
      · simp [memWrite, hj, h, h']
      · have h1 : ¬ j < i.toNat := by omega
        have h2 : j - i.toNat ≠ 0 := by omega
        simp [memWrite, hj, h, h1, h2]
  · rw [BitVec.getLsbD_of_ge _ _ (by omega), BitVec.getLsbD_of_ge _ _ (by omega)]
    have : j ≠ i.toNat := by omega
    simp [this]

theorem memRead_memWrite_same (buf : Frame) (i : Slot) (b : Bool) :
    memRead (memWrite buf i b) i = b := by
  simp [memRead, getLsbD_memWrite]

theorem memRead_memWrite_other (buf : Frame) (i j : Slot) (b : Bool) (h : j ≠ i) :
    memRead (memWrite buf i b) j = memRead buf j := by
  have : j.toNat ≠ i.toNat := fun e => h (BitVec.eq_of_toNat_eq e)
  simp [memRead, getLsbD_memWrite, this]

/-- Bit `k` of a slice is slot `off + k` (R39). -/
theorem getLsbD_slice (buf : Frame) (off width k : Nat) :
    (slice buf off width).getLsbD k = (decide (k < width) && buf.getLsbD (off + k)) := by
  simp [slice]

/-- `FLAGS` holds the flag slots in frame order (R33, R90). -/
theorem getLsbD_packFlags (buf : Frame) (k : Nat) (h : k < 5) :
    (packFlags buf).getLsbD k = buf.getLsbD (15 + k) := by
  have five : ∀ a b c d e : Bool,
      let v := BitVec.ofBool a ++ (BitVec.ofBool b ++ (BitVec.ofBool c ++ (BitVec.ofBool d ++ BitVec.ofBool e)))
      v.getLsbD 0 = e ∧ v.getLsbD 1 = d ∧ v.getLsbD 2 = c ∧ v.getLsbD 3 = b ∧ v.getLsbD 4 = a := by decide
  have bits := five (buf.getLsbD 19) (buf.getLsbD 18) (buf.getLsbD 17) (buf.getLsbD 16) (buf.getLsbD 15)
  rcases (by omega : k = 0 ∨ k = 1 ∨ k = 2 ∨ k = 3 ∨ k = 4) with rfl | rfl | rfl | rfl | rfl
  exacts [bits.1, bits.2.1, bits.2.2.1, bits.2.2.2.1, bits.2.2.2.2]

@[simp] theorem flagZ1_packFlags (buf : Frame) : flagZ1 (packFlags buf) = buf.getLsbD 17 :=
  getLsbD_packFlags buf 2 (by decide)

/-- The bits of the mask are the three channels (R93). -/
theorem parityMask_bits (buf : Frame) :
    (parityMask buf).getLsbD 0 = errMinute buf ∧ (parityMask buf).getLsbD 1 = errHour buf ∧
      (parityMask buf).getLsbD 2 = errDate buf := by
  unfold parityMask
  cases errMinute buf <;> cases errHour buf <;> cases errDate buf <;> decide

/-- The mask is zero exactly when all three channels agree. -/
theorem parityMask_eq_zero (buf : Frame) :
    parityMask buf = 0#3 ↔ errMinute buf = false ∧ errHour buf = false ∧ errDate buf = false := by
  unfold parityMask
  cases errMinute buf <;> cases errHour buf <;> cases errDate buf <;> decide

end Sys2Proof.Laws
end

