-- ==== Sys2Proof/Laws/Poll.lean ====
section
/-! SUPPORT. What POLL can do, said once: the closed form of steps 3a to 3h, the three outcomes of step 3i, and the four
cases of a whole POLL. -/

namespace Sys2Proof.Laws

open Sys2Proof.Machine

/-- The counter as it stands after step 3a: the slot the accepted bit is written to (R78). -/
def bitSlot (r : Regs) : Slot := if somSet r then 0#6 else r.ctr

/-- The buffer as it stands after step 3a. -/
def baseBuf (r : Regs) : Frame := if somSet r then 0#64 else r.buf

theorem somSet_iff (r : Regs) : somSet r = true ↔ r.som ≠ 0#32 := by
  simp [somSet]

theorem inRange_iff (d : Ms) : inRange d = true ↔ 100 ≤ d.toNat ∧ d.toNat < 220 := by
  simp [inRange]

theorem minuteAvailable_iff (r : Regs) : minuteAvailable r = true ↔ r.som ≠ 0#32 ∧ r.tp = true := by
  simp [minuteAvailable, somSet]

/-- The classifier on the accepted range (R77). -/
theorem classify_iff (d : Ms) (h : d.toNat < 220) : classify d = true ↔ 200 ≤ d.toNat := by
  simp only [classify, classifyValue, beq_iff_eq]
  omega

@[simp] theorem collectBit_ctr (r : Regs) :
    (collectBit r).ctr = if 61 < (bitSlot r).toNat then 0#6 else bitSlot r + 1#6 := by
  cases h : somSet r <;> simp [collectBit, bitSlot, h]

@[simp] theorem collectBit_buf (r : Regs) :
    (collectBit r).buf = memWrite (baseBuf r) (bitSlot r) (classify r.thisBit) := by
  simp [collectBit, bitSlot, baseBuf]

@[simp] theorem collectBit_sync (r : Regs) :
    (collectBit r).sync = if (bitSlot r).toNat = 20 then classify r.thisBit else r.sync := by
  cases h : somSet r <;> simp [collectBit, bitSlot, h]

@[simp] theorem collectBit_tp (r : Regs) : (collectBit r).tp = if somSet r then false else r.tp := by
  simp [collectBit]

@[simp] theorem collectBit_lastPulseStart (r : Regs) : (collectBit r).lastPulseStart = r.pulseStart := by
  simp [collectBit]

@[simp] theorem collectBit_thisBit (r : Regs) : (collectBit r).thisBit = 0#32 := by
  simp [collectBit]

@[simp] theorem collectBit_perr (r : Regs) :
    (collectBit r).perr = if (bitSlot r).toNat = 1 then 0#3 else r.perr := by
  cases h : somSet r <;> simp [collectBit, bitSlot, h]

@[simp] theorem collectBit_localTs (r : Regs) :
    (collectBit r).localTs = if (bitSlot r).toNat = 1 then 0#32 else r.localTs := by
  cases h : somSet r <;> simp [collectBit, bitSlot, h]

@[simp] theorem collectBit_regionalTs (r : Regs) :
    (collectBit r).regionalTs = if (bitSlot r).toNat = 1 then 0#32 else r.regionalTs := by
  cases h : somSet r <;> simp [collectBit, bitSlot, h]

@[simp] theorem collectBit_utcTs (r : Regs) :
    (collectBit r).utcTs = if (bitSlot r).toNat = 1 then 0#32 else r.utcTs := by
  cases h : somSet r <;> simp [collectBit, bitSlot, h]

/-- Fields that an accepted bit leaves alone before step 3i. -/
@[simp] theorem collectBit_keeps (r : Regs) :
    (collectBit r).pulseStart = r.pulseStart ∧ (collectBit r).som = r.som ∧ (collectBit r).ind = r.ind ∧
    (collectBit r).indOut = r.indOut ∧ (collectBit r).minBcd = r.minBcd ∧ (collectBit r).hourBcd = r.hourBcd ∧
    (collectBit r).dayBcd = r.dayBcd ∧ (collectBit r).monthBcd = r.monthBcd ∧ (collectBit r).yearBcd = r.yearBcd ∧
    (collectBit r).flags = r.flags ∧ (collectBit r).civil = r.civil := by
  simp [collectBit]

/-- Steps 3a to 3h as one record: everything an accepted bit does before step 3i. -/
theorem collectBit_eq (r : Regs) :
    collectBit r =
      { r with
        ctr := if 61 < (bitSlot r).toNat then 0#6 else bitSlot r + 1#6
        buf := memWrite (baseBuf r) (bitSlot r) (classify r.thisBit)
        sync := if (bitSlot r).toNat = 20 then classify r.thisBit else r.sync
        tp := if somSet r then false else r.tp
        lastPulseStart := r.pulseStart
        thisBit := 0#32
        perr := if (bitSlot r).toNat = 1 then 0#3 else r.perr
        localTs := if (bitSlot r).toNat = 1 then 0#32 else r.localTs
        regionalTs := if (bitSlot r).toNat = 1 then 0#32 else r.regionalTs
        utcTs := if (bitSlot r).toNat = 1 then 0#32 else r.utcTs } := by
  apply regs_ext
  simp

/-- Step 3i does one of three things (R82): nothing, a decode with a parity error, or a decode, build and publication. -/
theorem decodeTrigger_cases (r : Regs) :
    (¬(r.ctr.toNat = 59 ∧ r.sync = true) ∧ decodeTrigger r = r) ∨
    ((r.ctr.toNat = 59 ∧ r.sync = true) ∧ parityMask r.buf ≠ 0#3 ∧ decodeTrigger r = decodeFrame r) ∨
    ((r.ctr.toNat = 59 ∧ r.sync = true) ∧ parityMask r.buf = 0#3 ∧
      decodeTrigger r = publish (buildWith Config.makeTime (decodeFrame r))) := by
  unfold decodeTrigger
  by_cases h : r.ctr.toNat = 59 ∧ r.sync = true
  · by_cases m : parityMask r.buf = 0#3
    · right; right
      simp [h, m, build_eq]
    · right; left
      simp [h, m]
  · left
    simp only [h, not_false_eq_true, if_false, and_self]

/-- Fields that step 3i never writes. -/
@[simp] theorem decodeTrigger_keeps (r : Regs) :
    (decodeTrigger r).pulseStart = r.pulseStart ∧ (decodeTrigger r).lastPulseStart = r.lastPulseStart ∧
    (decodeTrigger r).som = r.som ∧ (decodeTrigger r).thisBit = r.thisBit ∧ (decodeTrigger r).ind = r.ind ∧
    (decodeTrigger r).ctr = r.ctr ∧ (decodeTrigger r).buf = r.buf ∧ (decodeTrigger r).sync = r.sync ∧
    (decodeTrigger r).indOut = r.indOut := by
  rcases decodeTrigger_cases r with ⟨-, h⟩ | ⟨-, -, h⟩ | ⟨-, -, h⟩ <;> simp [h]

/-- A whole POLL does one of three things (R70): step 1, the mirror alone, or the mirror and an accepted bit. -/
theorem pollRegs_cases (r : Regs) :
    ((r.som ≠ 0#32 ∧ r.tp = true) ∧ pollRegs r = { r with tp := false }) ∨
    (¬(r.som ≠ 0#32 ∧ r.tp = true) ∧ ¬(100 ≤ r.thisBit.toNat ∧ r.thisBit.toNat < 220) ∧
      pollRegs r = mirrorInd r) ∨
    (Safety.acceptsBit r ∧ pollRegs r = decodeTrigger (collectBit (mirrorInd r))) := by
  unfold pollRegs pollBit
  by_cases h : r.som ≠ 0#32 ∧ r.tp = true
  · left
    rw [if_pos ((minuteAvailable_iff r).2 h)]
    exact ⟨h, rfl⟩
  · right
    rw [if_neg (fun e => h ((minuteAvailable_iff r).1 e))]
    by_cases d : 100 ≤ r.thisBit.toNat ∧ r.thisBit.toNat < 220
    · right
      rw [if_pos ((inRange_iff _).2 d)]
      exact ⟨⟨h, d⟩, rfl⟩
    · left
      rw [if_neg (fun e => d ((inRange_iff _).1 e))]
      exact ⟨h, d, rfl⟩

@[simp] theorem bitSlot_mirrorInd (r : Regs) : bitSlot (mirrorInd r) = bitSlot r := rfl
@[simp] theorem baseBuf_mirrorInd (r : Regs) : baseBuf (mirrorInd r) = baseBuf r := rfl
@[simp] theorem somSet_mirrorInd (r : Regs) : somSet (mirrorInd r) = somSet r := rfl

/-- An accepting POLL in one equation, for citing with `decodeTrigger_cases`. -/
theorem pollRegs_of_accepts (r : Regs) (h : Safety.acceptsBit r) :
    pollRegs r = decodeTrigger (collectBit (mirrorInd r)) := by
  rcases pollRegs_cases r with ⟨h', -⟩ | ⟨-, h', -⟩ | ⟨-, e⟩
  · exact absurd h' h.1
  · exact absurd h.2 h'
  · exact e

/-- The slot of the next bit, as claims name it. -/
theorem nextSlot_eq (r : Regs) : Safety.nextSlot r = (bitSlot r).toNat := by
  unfold bitSlot Safety.nextSlot
  by_cases h : r.som = 0#32 <;> simp [h, somSet]

/-- The bit of an accepted duration, as claims name it. -/
theorem bitValue_eq (r : Regs) (h : r.thisBit.toNat < 220) : Safety.bitValue r = classify r.thisBit := by
  have := classify_iff r.thisBit h
  rw [Bool.eq_iff_iff]
  simp [this, Safety.bitValue]

/-- The buffer after an accepted bit, as claims name it. -/
theorem frameAfterBit_eq (r : Regs) (h : r.thisBit.toNat < 220) :
    Safety.frameAfterBit r = memWrite (baseBuf r) (bitSlot r) (classify r.thisBit) := by
  unfold Safety.frameAfterBit memWrite baseBuf
  rw [bitValue_eq r h, nextSlot_eq]
  congr 1
  · congr 1
    simp [somSet]
  · cases classify r.thisBit <;> simp

/-- The buffer after an accepted bit, slot by slot. -/
theorem frameAfterBit_bits (r : Regs) (h : r.thisBit.toNat < 220) (j : Nat) :
    (Safety.frameAfterBit r).getLsbD j =
      if j = Safety.nextSlot r then Safety.bitValue r
      else if r.som ≠ 0#32 then false else r.buf.getLsbD j := by
  rw [frameAfterBit_eq _ h, getLsbD_memWrite, ← nextSlot_eq, ← bitValue_eq _ h]
  by_cases hs : r.som = 0#32 <;> simp [hs, somSet, baseBuf]

/-- An accepted bit, steps 2 to 3h, in the terms of claims; `TP` is 0 already when step 3a clears it (R74). -/
theorem accept_eq (r : Regs) (h : Safety.acceptsBit r) :
    collectBit (mirrorInd r) =
      { r with
        indOut := r.ind
        lastPulseStart := r.pulseStart
        thisBit := 0#32
        buf := Safety.frameAfterBit r
        ctr := if 61 < Safety.nextSlot r then 0#6 else BitVec.ofNat 6 (Safety.nextSlot r + 1)
        sync := if Safety.nextSlot r = 20 then Safety.bitValue r else r.sync
        perr := if Safety.nextSlot r = 1 then 0#3 else r.perr
        localTs := if Safety.nextSlot r = 1 then 0#32 else r.localTs
        regionalTs := if Safety.nextSlot r = 1 then 0#32 else r.regionalTs
        utcTs := if Safety.nextSlot r = 1 then 0#32 else r.utcTs } := by
  have ht : (if somSet r then false else r.tp) = r.tp := by
    split_ifs with hs
    · rw [somSet_iff] at hs
      by_contra hc
      exact h.1 ⟨hs, by simpa using Ne.symm hc⟩
    · rfl
  have hc : (if 61 < Safety.nextSlot r then 0#6 else BitVec.ofNat 6 (Safety.nextSlot r + 1)) =
      if 61 < (bitSlot r).toNat then 0#6 else bitSlot r + 1#6 := by
    rw [nextSlot_eq]
    split
    · rfl
    · apply BitVec.eq_of_toNat_eq
      simp [BitVec.toNat_add]
  rw [collectBit_eq]
  simp only [bitSlot_mirrorInd, baseBuf_mirrorInd, somSet_mirrorInd, mirrorInd_keeps, ht, hc, ← nextSlot_eq,
    frameAfterBit_eq r h.2.2, bitValue_eq r h.2.2]
  rfl

/-- Fields that an accepted bit leaves alone before step 3i. -/
theorem accept_keeps (r : Regs) (h : Safety.acceptsBit r) :
    let c := collectBit (mirrorInd r)
    c.tp = r.tp ∧ c.pulseStart = r.pulseStart ∧ c.som = r.som ∧ c.ind = r.ind ∧ c.minBcd = r.minBcd ∧
    c.hourBcd = r.hourBcd ∧ c.dayBcd = r.dayBcd ∧ c.monthBcd = r.monthBcd ∧ c.yearBcd = r.yearBcd ∧
    c.flags = r.flags ∧ c.civil = r.civil := by
  refine ⟨?_, ?_⟩
  · rw [accept_eq _ h]
  · simp

/-- Fields that an accepted bit writes before step 3i. -/
theorem accept_writes (r : Regs) (h : Safety.acceptsBit r) :
    let c := collectBit (mirrorInd r)
    c.indOut = r.ind ∧ c.lastPulseStart = r.pulseStart ∧ c.thisBit = 0#32 ∧ c.buf = Safety.frameAfterBit r ∧
    c.ctr = (if 61 < Safety.nextSlot r then 0#6 else BitVec.ofNat 6 (Safety.nextSlot r + 1)) ∧
    c.sync = (if Safety.nextSlot r = 20 then Safety.bitValue r else r.sync) ∧
    c.perr = (if Safety.nextSlot r = 1 then 0#3 else r.perr) ∧
    c.localTs = (if Safety.nextSlot r = 1 then 0#32 else r.localTs) ∧
    c.regionalTs = (if Safety.nextSlot r = 1 then 0#32 else r.regionalTs) ∧
    c.utcTs = (if Safety.nextSlot r = 1 then 0#32 else r.utcTs) := by
  rw [accept_eq _ h]
  exact ⟨rfl, rfl, rfl, rfl, rfl, rfl, rfl, rfl, rfl, rfl⟩

/-- Step 3i is reached exactly by the bit of slot 58 with `SYNC` = 1 (R82). -/
theorem accept_triggers_iff (r : Regs) (h : Safety.acceptsBit r) :
    ((collectBit (mirrorInd r)).ctr.toNat = 59 ∧ (collectBit (mirrorInd r)).sync = true) ↔
      (Safety.nextSlot r = 58 ∧ r.sync = true) := by
  rw [accept_eq _ h]
  have hn : Safety.nextSlot r < 64 := by
    rw [nextSlot_eq]
    exact slot_lt _
  simp only
  generalize Safety.nextSlot r = n at *
  split_ifs <;> simp <;> omega

/-- A POLL that accepts a bit, whole: the bit alone, the bit and a decode with an error, or the bit, a clean decode, a build
and the publication. -/
theorem accept_cases (r : Regs) (h : Safety.acceptsBit r) :
    (¬(Safety.nextSlot r = 58 ∧ r.sync = true) ∧ pollRegs r = collectBit (mirrorInd r)) ∨
    ((Safety.nextSlot r = 58 ∧ r.sync = true) ∧ parityMask (Safety.frameAfterBit r) ≠ 0#3 ∧
      pollRegs r = decodeFrame (collectBit (mirrorInd r))) ∨
    ((Safety.nextSlot r = 58 ∧ r.sync = true) ∧ parityMask (Safety.frameAfterBit r) = 0#3 ∧
      pollRegs r = publish (buildWith Config.makeTime (decodeFrame (collectBit (mirrorInd r))))) := by
  have hb : (collectBit (mirrorInd r)).buf = Safety.frameAfterBit r := by rw [accept_eq _ h]
  rw [pollRegs_of_accepts _ h, ← accept_triggers_iff _ h, ← hb]
  exact decodeTrigger_cases _

/-- Fields of an accepting POLL that step 3i never touches. -/
theorem accept_poll_writes (r : Regs) (h : Safety.acceptsBit r) :
    (pollRegs r).indOut = r.ind ∧ (pollRegs r).lastPulseStart = r.pulseStart ∧ (pollRegs r).thisBit = 0#32 ∧
    (pollRegs r).buf = Safety.frameAfterBit r ∧
    (pollRegs r).ctr = (if 61 < Safety.nextSlot r then 0#6 else BitVec.ofNat 6 (Safety.nextSlot r + 1)) ∧
    (pollRegs r).sync = (if Safety.nextSlot r = 20 then Safety.bitValue r else r.sync) ∧
    (pollRegs r).pulseStart = r.pulseStart ∧ (pollRegs r).som = r.som ∧ (pollRegs r).ind = r.ind := by
  obtain ⟨h1, h2, h3, h4, h5, h6, -⟩ := accept_writes r h
  obtain ⟨-, k1, k2, k3, -⟩ := accept_keeps r h
  rw [pollRegs_of_accepts _ h]
  simp only [decodeTrigger_keeps, h1, h2, h3, h4, h5, h6, k1, k2, k3, and_self]

/-- A POLL that accepts no bit clears `TP` (step 1) or mirrors the indicator (step 2), and nothing else. -/
theorem not_accept_cases (r : Regs) (h : ¬Safety.acceptsBit r) :
    ((r.som ≠ 0#32 ∧ r.tp = true) ∧ pollRegs r = { r with tp := false }) ∨
      (¬(r.som ≠ 0#32 ∧ r.tp = true) ∧ pollRegs r = mirrorInd r) := by
  rcases pollRegs_cases r with ⟨h', e⟩ | ⟨h', -, e⟩ | ⟨e, -⟩
  · exact .inl ⟨h', e⟩
  · exact .inr ⟨h', e⟩
  · exact absurd e h

/-- POLL's response data (R71). -/
theorem pollData_eq (r : Regs) : pollData r = if r.som ≠ 0#32 ∧ r.tp = true then r.som else 0#32 := by
  unfold pollData
  by_cases h : r.som ≠ 0#32 ∧ r.tp = true
  · rw [if_pos h, if_pos ((minuteAvailable_iff r).2 h)]
  · rw [if_neg h, if_neg (fun e => h ((minuteAvailable_iff r).1 e))]

end Sys2Proof.Laws
end

