-- ==== Sys2Proof/Laws/Exec.lean ====
section
/-! SUPPORT. What a request, a word and a step can do, said once each. -/

namespace Sys2Proof.Laws

open Sys2Proof.Machine

/-- The assigned READ numbers are 0x00..0x12 (R106). -/
theorem readMap_isSome (r : Regs) (index : BitVec 8) :
    (readMap r index).isSome = decide (index.toNat ≤ 0x12) := by
  unfold readMap
  generalize index.toNat = n
  split
  all_goals first | rfl | skip
  symm
  simp only [Option.isSome_none, decide_eq_false_iff_not]
  intro h
  interval_cases n <;> simp_all

/-- The registers after a request. -/
def regsAfter (i : Instr) (r : Regs) : Regs :=
  match i with
  | .nop => r
  | .poll => pollRegs r
  | .edgeOff now => sampleOff now r
  | .edgeOn now => sampleOn now r
  | .read _ => r
  | .b2d _ => r
  | .d2b _ => r

/-- The response to a request. -/
def responseTo (i : Instr) (r : Regs) : Response :=
  match i with
  | .nop => ⟨true, 0#32⟩
  | .poll => ⟨true, pollData r⟩
  | .edgeOff _ => ⟨true, 0#32⟩
  | .edgeOn _ => ⟨true, 0#32⟩
  | .read index => ⟨(readMap r index).isSome, (readMap r index).getD 0#32⟩
  | .b2d v => ⟨true, BitVec.ofNat 32 (bcdToDec v)⟩
  | .d2b v => ⟨true, BitVec.ofNat 32 (decToBcd v)⟩

/-- Every request answers a next state, in which only the registers and the response differ (R110, R46). -/
theorem exec_eq (i : Instr) (s : State) :
    exec i s = .next { s with regs := regsAfter i s.regs, response := some (responseTo i s.regs) } := by
  cases i with
  | read index =>
    simp only [exec, execRead, regsAfter, responseTo]
    cases readMap s.regs index <;> simp
  | _ => rfl

/-- The registers after a word: those of its request, or unchanged for a word that spells none (R111). -/
def regsAfterWord (w : ReqWord) (r : Regs) : Regs :=
  match decode w with
  | .ok i => regsAfter i r
  | .error _ => r

/-- The response to a word. -/
def responseToWord (w : ReqWord) (r : Regs) : Response :=
  match decode w with
  | .ok i => responseTo i r
  | .error _ => ⟨false, 0#32⟩

/-- Every word answers a next state, in which only the registers and the response differ. -/
theorem perform_eq (w : ReqWord) (s : State) :
    perform w s = .next { s with regs := regsAfterWord w s.regs, response := some (responseToWord w s.regs) } := by
  unfold perform regsAfterWord responseToWord
  cases decode w with
  | ok i => exact exec_eq i s
  | error e => exact raiseErr_eq e s

theorem takeInput_idle (s : State) (h : s.inputs = []) : takeInput s = .word idleWord s := by
  unfold takeInput
  split <;> simp_all

theorem takeInput_host (s : State) (w : ReqWord) (rest : List Moment) (h : s.inputs = .host w :: rest) :
    takeInput s = .word w { s with inputs := rest } := by
  unfold takeInput
  split <;> simp_all

theorem takeInput_edge (s : State) (w : ReqWord) (rest : List Moment) (h : s.inputs = .edge w :: rest) :
    takeInput s = .word w { s with inputs := rest } := by
  unfold takeInput
  split <;> simp_all

theorem takeInput_reset (s : State) (rest : List Moment) (h : s.inputs = .reset :: rest) :
    takeInput s = .reset { s with inputs := rest } := by
  unfold takeInput
  split <;> simp_all

/-- Of two simultaneous words one is taken and the other stays presented (R47), whatever `ARB` is. -/
theorem takeInput_both (s : State) (e h : ReqWord) (rest : List Moment) (hi : s.inputs = .both e h :: rest) :
    takeInput s = .word e { s with inputs := .host h :: rest, arbCount := s.arbCount + 1 } ∨
      takeInput s = .word h { s with inputs := .edge e :: rest, arbCount := s.arbCount + 1 } := by
  unfold takeInput
  rw [hi]
  cases Config.arb s.arbCount <;> simp

/-- What the port hands to a step: a word, with the registers, or RESET; the inputs alone differ. -/
theorem takeInput_cases (s : State) :
    (∃ w ins n, takeInput s = .word w { s with inputs := ins, arbCount := n }) ∨
    (∃ rest, s.inputs = .reset :: rest ∧ takeInput s = .reset { s with inputs := rest }) := by
  unfold takeInput
  split
  · exact .inl ⟨_, s.inputs, s.arbCount, rfl⟩
  · exact .inl ⟨_, _, s.arbCount, rfl⟩
  · exact .inl ⟨_, _, s.arbCount, rfl⟩
  · split
    · exact .inl ⟨_, _, _, rfl⟩
    · exact .inl ⟨_, _, _, rfl⟩
  · exact .inr ⟨_, ‹_›, rfl⟩

/-- Every step answers a next state, whose registers are those after one word or all zero (R46, R123). -/
theorem step_cases (s : State) :
    ∃ s', step s = .next s' ∧
      ((∃ w, s'.regs = regsAfterWord w s.regs ∧ s'.response = some (responseToWord w s.regs)) ∨
        (s'.regs = Regs.reset ∧ s'.response = none)) := by
  unfold step
  rcases takeInput_cases s with ⟨w, ins, n, h⟩ | ⟨rest, -, h⟩
  · rw [h]
    exact ⟨_, perform_eq w _, .inl ⟨w, rfl, rfl⟩⟩
  · rw [h]
    exact ⟨_, rfl, .inr ⟨rfl, rfl⟩⟩

/-- The registers after requests performed one after another. -/
def regsAfterAll (is : List Instr) (r : Regs) : Regs := is.foldl (fun r i => regsAfter i r) r

/-- A list of requests answers a next state, in which only the registers and the response differ. -/
theorem execAll_next (is : List Instr) (s : State) :
    ∃ resp, Safety.execAll is s = .next { s with regs := regsAfterAll is s.regs, response := resp } := by
  induction is generalizing s with
  | nil => exact ⟨s.response, rfl⟩
  | cons i rest ih =>
    obtain ⟨resp, h⟩ := ih { s with regs := regsAfter i s.regs, response := some (responseTo i s.regs) }
    refine ⟨resp, ?_⟩
    rw [Safety.execAll, exec_eq]
    exact h

/-- The requests of one more second (R88). -/
theorem frameRequests_succ (t : Nat) (frame : Frame) (k : Nat) :
    Safety.frameRequests t frame (k + 1) =
      Safety.frameRequests t frame k ++ pulseRequests (t + 1000 * k) (100 + 100 * (frame.getLsbD k).toNat) := rfl

theorem regsAfterAll_append (is js : List Instr) (r : Regs) :
    regsAfterAll (is ++ js) r = regsAfterAll js (regsAfterAll is r) := by
  simp [regsAfterAll]

/-- An invariant of the registers that holds at reset and that each request keeps is kept by every step. -/
theorem step_keeps (Inv : Regs → Prop) (h0 : Inv Regs.reset) (h : ∀ i r, Inv r → Inv (regsAfter i r))
    {s s' : State} (hs : step s = .next s') (hi : Inv s.regs) : Inv s'.regs := by
  obtain ⟨t, ht, c⟩ := step_cases s
  rw [hs] at ht
  cases ht
  rcases c with ⟨w, e, -⟩ | ⟨e, -⟩
  · rw [e]
    unfold regsAfterWord
    cases decode w with
    | ok i => exact h i _ hi
    | error _ => exact hi
  · rw [e]
    exact h0

end Sys2Proof.Laws
end

