-- ==== Sys2Proof/Laws/PerInstr.lean ====
section
/-! SUPPORT. Laws stated per instruction: each request's words carry the fixed bits of its row of opcode_table.json (R56). -/

namespace Sys2Proof.Laws.TableBits

/-- The encoded word matches the row's mask and match. -/
def Statement (i : Instr) : Prop := encode i &&& tableMask i = tableMatch i

theorem high_bits (op : BitVec 4) (p : BitVec 32) :
    (op ++ p : ReqWord) &&& 0xF00000000#36 = op ++ 0#32 := by
  have : (0xF00000000#36 : ReqWord) = 0xF#4 ++ 0#32 := by decide
  rw [this, BitVec.and_append]
  simp only [BitVec.and_zero, show (0xF#4 : BitVec 4) = BitVec.allOnes 4 by decide, BitVec.and_allOnes]

theorem high_and_sbz_bits (op : BitVec 4) (v : BitVec 8) :
    (formatB op v) &&& 0xFFFFFFF00#36 = op ++ 0#32 := by
  have : (0xFFFFFFF00#36 : ReqWord) = 0xF#4 ++ (0xFFFFFF#24 ++ 0#8) := by decide
  unfold formatB
  rw [this, BitVec.and_append, BitVec.and_append]
  simp only [BitVec.and_zero, BitVec.zero_and, show (0xF#4 : BitVec 4) = BitVec.allOnes 4 by decide,
    BitVec.and_allOnes]
  congr 1

theorem nop : Statement .nop := by unfold Statement; decide
theorem poll : Statement .poll := by unfold Statement; decide
theorem edgeOff (now : Ms) : Statement (.edgeOff now) := high_bits 0x2#4 now
theorem edgeOn (now : Ms) : Statement (.edgeOn now) := high_bits 0x3#4 now
theorem read (index : BitVec 8) : Statement (.read index) := high_and_sbz_bits 0x4#4 index
theorem b2d (v : BitVec 8) : Statement (.b2d v) := high_and_sbz_bits 0x5#4 v
theorem d2b (v : BitVec 8) : Statement (.d2b v) := high_and_sbz_bits 0x6#4 v

end Sys2Proof.Laws.TableBits
end

