-- ==== Sys2Proof/Laws/Words.lean ====
section
/-! SUPPORT. Request words as numbers: the fields of a word, the value of each format, the decoder on the two fields, and
the table's masks. -/

namespace Sys2Proof.Laws

/-- An append of bit vectors as a number. -/
theorem append_toNat {m n : Nat} (a : BitVec m) (b : BitVec n) :
    (a ++ b).toNat = a.toNat * 2 ^ n + b.toNat := by
  rw [BitVec.toNat_append, ← Nat.shiftLeft_add_eq_or_of_lt b.isLt, Nat.shiftLeft_eq]

theorem opField_toNat (w : ReqWord) : (opField w).toNat = w.toNat / 2 ^ 32 := by
  simp only [opField, BitVec.extractLsb'_toNat, Nat.shiftRight_eq_div_pow]
  have := w.isLt
  omega

theorem payload_toNat (w : ReqWord) : (payload w).toNat = w.toNat % 2 ^ 32 := by
  simp [payload]

theorem timeOperand_eq (w : ReqWord) : timeOperand w = BitVec.ofNat 32 (w.toNat % 2 ^ 32) := by
  apply BitVec.eq_of_toNat_eq
  simp [timeOperand, payload_toNat]

theorem byteOperand_eq (w : ReqWord) : byteOperand w = BitVec.ofNat 8 (w.toNat % 2 ^ 32) := by
  apply BitVec.eq_of_toNat_eq
  simp [byteOperand, payload_toNat]

theorem sbzClearZ_iff (w : ReqWord) : sbzClearZ w = true ↔ w.toNat % 2 ^ 32 = 0 := by
  rw [sbzClearZ, beq_iff_eq, ← BitVec.toNat_inj, payload_toNat]
  simp

theorem sbzClearB_iff (w : ReqWord) : sbzClearB w = true ↔ w.toNat % 2 ^ 32 / 2 ^ 8 = 0 := by
  rw [sbzClearB, beq_iff_eq, ← BitVec.toNat_inj, BitVec.extractLsb'_toNat, payload_toNat,
    Nat.shiftRight_eq_div_pow, BitVec.toNat_ofNat]
  omega

theorem formatZ_toNat (op : BitVec 4) : (formatZ op).toNat = op.toNat * 2 ^ 32 := by
  unfold formatZ
  exact (append_toNat op 0#32).trans (Nat.add_zero _)

theorem formatT_toNat (op : BitVec 4) (t : Ms) : (formatT op t).toNat = op.toNat * 2 ^ 32 + t.toNat :=
  append_toNat op t

theorem formatB_toNat (op : BitVec 4) (v : BitVec 8) : (formatB op v).toNat = op.toNat * 2 ^ 32 + v.toNat := by
  have h : (0#24 ++ v : BitVec 32).toNat = v.toNat := by
    rw [append_toNat]
    simp
  exact (append_toNat op (0#24 ++ v)).trans (by rw [h])

/-- The decoder as a function of the two fields of the word. -/
theorem decode_eq_fields (w : ReqWord) :
    decode w =
      match w.toNat / 2 ^ 32 with
      | 0x0 => if w.toNat % 2 ^ 32 = 0 then .ok .nop else .error .nonzeroSbz
      | 0x1 => if w.toNat % 2 ^ 32 = 0 then .ok .poll else .error .nonzeroSbz
      | 0x2 => .ok (.edgeOff (BitVec.ofNat 32 (w.toNat % 2 ^ 32)))
      | 0x3 => .ok (.edgeOn (BitVec.ofNat 32 (w.toNat % 2 ^ 32)))
      | 0x4 => if w.toNat % 2 ^ 32 / 2 ^ 8 = 0 then .ok (.read (BitVec.ofNat 8 (w.toNat % 2 ^ 32)))
          else .error .nonzeroSbz
      | 0x5 => if w.toNat % 2 ^ 32 / 2 ^ 8 = 0 then .ok (.b2d (BitVec.ofNat 8 (w.toNat % 2 ^ 32)))
          else .error .nonzeroSbz
      | 0x6 => if w.toNat % 2 ^ 32 / 2 ^ 8 = 0 then .ok (.d2b (BitVec.ofNat 8 (w.toNat % 2 ^ 32)))
          else .error .nonzeroSbz
      | _ => .error .illegalWord := by
  unfold decode
  rw [opField_toNat]
  generalize w.toNat / 2 ^ 32 = op
  rcases op with _ | _ | _ | _ | _ | _ | _ | op
  all_goals first
    | rfl
    | simp only [orNonzeroSbz, sbzClearZ_iff, sbzClearB_iff, timeOperand_eq, byteOperand_eq, Nat.zero_add, Nat.reduceAdd]

/-- A word is its two fields. -/
theorem word_eq (w : ReqWord) : w = (opField w ++ payload w : BitVec (4 + 32)) := by
  apply BitVec.eq_of_toNat_eq
  rw [append_toNat, opField_toNat, payload_toNat]
  omega

/-- The mask of format T keeps the operation field. -/
theorem maskT_eq (w : ReqWord) : w &&& 0xF00000000#36 = formatZ (opField w) := by
  have h := TableBits.high_bits (opField w) (payload w)
  rw [← word_eq w] at h
  exact h

/-- The mask of format B keeps the operation field and the must-be-zero bits. -/
theorem maskB_toNat (w : ReqWord) : (w &&& 0xFFFFFFF00#36).toNat = w.toNat / 2 ^ 8 * 2 ^ 8 := by
  have e : w = (w.extractLsb' 8 28 ++ w.extractLsb' 0 8 : BitVec (28 + 8)) := by
    apply BitVec.eq_of_toNat_eq
    rw [append_toNat, BitVec.extractLsb'_toNat, BitVec.extractLsb'_toNat, Nat.shiftRight_eq_div_pow]
    have := w.isLt
    omega
  have m : (0xFFFFFFF00#36 : ReqWord) = (BitVec.allOnes 28 ++ 0#8 : BitVec (28 + 8)) := by decide
  have h : w &&& 0xFFFFFFF00#36 = (w.extractLsb' 8 28 ++ 0#8 : BitVec (28 + 8)) := by
    rw [m]
    refine (congrArg (· &&& (BitVec.allOnes 28 ++ 0#8 : BitVec (28 + 8))) e).trans ?_
    rw [BitVec.and_append, BitVec.and_allOnes, BitVec.and_zero]
  rw [h, append_toNat, BitVec.extractLsb'_toNat, Nat.shiftRight_eq_div_pow]
  have := w.isLt
  simp only [BitVec.toNat_ofNat]
  omega

/-- The mask of format Z keeps the whole word. -/
theorem maskZ_eq (w : ReqWord) : w &&& 0xFFFFFFFFF#36 = w := by
  have : (0xFFFFFFFFF#36 : ReqWord) = BitVec.allOnes 36 := by decide
  rw [this, BitVec.and_allOnes]

end Sys2Proof.Laws
end

