-- ==== Sys2Proof/Tests/Slice0.lean ====
section
/-! SUPPORT. The model's own tests. Expected values are those of spec/95_test_vectors.md (the vector is named beside each)
or written out from the rule named. The witnesses show, for each statement with hypotheses, a state and operands that meet
them. -/

namespace Sys2Proof.Tests

open Sys2Proof.Machine Sys2Proof.Safety Sys2Proof.Laws

/-- A launch state: the reset state with the given registers (R18). -/
def launch (r : Regs) : State := { State.reset with regs := r }

/-- The registers after a request. -/
def regsAfter (i : Instr) (r : Regs) : Regs :=
  match exec i (launch r) with
  | .next s => s.regs
  | .fault _ => Regs.reset
  | .refused _ => Regs.reset

/-- The response to a request. -/
def answer (i : Instr) (r : Regs) : Option Response :=
  match exec i (launch r) with
  | .next s => s.response
  | .fault _ => none
  | .refused _ => none

/-- The response word to a request word presented right after reset. -/
def answerFromReset (w : Nat) : Option (BitVec 33) :=
  match step (State.reset.withFetchWord 40 w) with
  | .next s => s.response.map responseWord
  | .fault _ => none
  | .refused _ => none

/-! ### Decoding: words written from R53 and R55, and the vectors V30 -/

theorem test_decode_nop : decodeTableWord 40 0x000000000 = some .nop := by decide
theorem test_decode_poll : decodeTableWord 40 0x100000000 = some .poll := by decide
theorem test_decode_edge_off : decodeTableWord 40 0x200001388 = some (.edgeOff 5000#32) := by decide
/-- V30.5: the largest time. -/
theorem test_decode_edge_off_top : decodeTableWord 40 0x2FFFFFFFF = some (.edgeOff 4294967295#32) := by decide
theorem test_decode_edge_on : decodeTableWord 40 0x3000013EC = some (.edgeOn 5100#32) := by decide
/-- R53 format B, bit by bit: operation code 0100, 24 zero bits, the byte 0001_0010. -/
theorem test_decode_read :
    decode 0b0100_000000000000000000000000_00010010#36 = .ok (.read (regNumber .utcTs)) := by rfl
/-- R53 format T, bit by bit: operation code 0011, the 32-bit time with its first and last bit set. -/
theorem test_decode_edge_on_bits :
    decode 0b0011_10000000000000000000000000000001#36 = .ok (.edgeOn 0x80000001#32) := by rfl
theorem test_decode_b2d : decodeTableWord 40 0x500000059 = some (.b2d 0x59#8) := by decide
theorem test_decode_d2b : decodeTableWord 40 0x60000003B = some (.d2b 59#8) := by decide
/-- V30.9 to V30.17: the ILLEGAL words. -/
theorem test_decode_illegal :
    [0x000000001, 0x100000001, 0x180000000, 0x400000100, 0x500000100, 0x600001000, 0x700000000, 0xF00000000,
      0xFFFFFFFFF].map (decodeTableWord 40) = List.replicate 9 none := by decide
/-- A bit above the 36-bit port. -/
theorem test_decode_above_the_port : decodeTableWord 40 0x1000000000 = none := by decide
/-- R62, the other way: the words of the encoder. -/
theorem test_encode :
    [Instr.nop, .poll, .edgeOff 5000#32, .edgeOn 5100#32, .read 0x12#8, .b2d 0x59#8, .d2b 59#8].map encode =
      [0x000000000#36, 0x100000000#36, 0x200001388#36, 0x3000013EC#36, 0x400000012#36, 0x500000059#36,
        0x60000003B#36] := by decide

/-! ### WellFormed: an ill-formed line for each check, which the check refuses (R60, R61) -/

theorem test_ill_formed_edge_off : (AsmLine.edgeOff 4294967296).wellFormed = false := by decide
theorem test_ill_formed_edge_on : (AsmLine.edgeOn 4294967296).wellFormed = false := by decide
theorem test_ill_formed_read : (AsmLine.read 256).wellFormed = false := by decide
theorem test_ill_formed_b2d : (AsmLine.b2d 256).wellFormed = false := by decide
theorem test_ill_formed_d2b : (AsmLine.d2b 256).wellFormed = false := by decide
theorem test_ill_formed_pulse_time : (AsmLine.pulse 4294967296 100).wellFormed = false := by decide
theorem test_ill_formed_pulse_length : (AsmLine.pulse 1000 4294967296).wellFormed = false := by decide
theorem test_ill_formed_bit_time : (AsmLine.bit 4294967296 0).wellFormed = false := by decide
theorem test_ill_formed_bit : (AsmLine.bit 1000 2).wellFormed = false := by decide

/-! ### The textual form -/

theorem test_text_read_name :
    assembleText [' ', 'R', 'E', 'A', 'D', ' ', 'U', 'T', 'C', '_', 'T', 'S', ';', 'x'] =
      some [0x400000012#36] := by decide
theorem test_text_hex : assembleText ['B', '2', 'D', ' ', '0', 'x', '5', '9'] = some [0x500000059#36] := by decide
theorem test_text_out_of_range : assembleText ['B', '2', 'D', ' ', '2', '5', '6'] = none := by decide
/-- The first pulse of P3 with a 1: `EDGE_OFF 28000`, `EDGE_ON 28200`, `POLL`. -/
theorem test_text_bit :
    assembleText ['B', 'I', 'T', ' ', '2', '8', '0', '0', '0', ',', ' ', '1'] =
      some [0x200006D60#36, 0x300006E28#36, 0x100000000#36] := by decide

/-! ### One request at a time -/

/-- V30: the response words from reset; `{1, 59}` is 2^32 + 59. -/
theorem test_step_responses :
    [0x000000000, 0x100000000, 0x200001388, 0x3000013EC, 0x400000012, 0x500000059, 0x60000003B, 0x100000001,
      0x700000000, 0x400000013].map answerFromReset =
      [some 0x100000000#33, some 0x100000000#33, some 0x100000000#33, some 0x100000000#33, some 0x100000000#33,
        some 0x10000003B#33, some 0x100000059#33, some 0#33, some 0#33, some 0#33] := by decide
/-- V40.2 and V40.4: a gap of exactly 1700 sets no marker, 1701 does. -/
theorem test_edge_off_gap :
    (regsAfter (.edgeOff 11700#32) { Regs.reset with lastPulseStart := 10000#32 }).som = 0#32 ∧
    (regsAfter (.edgeOff 11701#32) { Regs.reset with lastPulseStart := 10000#32 }).som = 11701#32 := by decide
/-- V40.6: the clock wraps. -/
theorem test_edge_off_wraps :
    regsAfter (.edgeOff 0x800#32) { Regs.reset with lastPulseStart := 0xFFFFFF00#32 } =
      { Regs.reset with lastPulseStart := 0xFFFFFF00#32, pulseStart := 2048#32, som := 2048#32, ind := true } := by
  decide
/-- V40.20 and V40.21: the padding wraps; the clock wraps. -/
theorem test_edge_on_wraps :
    regsAfter (.edgeOn 4998#32) { Regs.reset with pulseStart := 5000#32, ind := true } =
      { Regs.reset with pulseStart := 5000#32, thisBit := 3#32 } ∧
    (regsAfter (.edgeOn 80#32) { Regs.reset with pulseStart := 0xFFFFFFF0#32 }).thisBit = 101#32 := by decide
/-- V41.22: the sync capture writes 0, and the write replaces the slot. -/
theorem test_poll_slot_20 :
    regsAfter .poll { Regs.reset with ctr := 20#6, sync := true, buf := 0x0000000000100000#64, thisBit := 105#32 } =
      { Regs.reset with ctr := 21#6 } := by decide
/-- V41.24: a decode with a parity error does not touch the timestamps. -/
theorem test_poll_parity_error :
    regsAfter .poll { Regs.reset with
        ctr := 58#6, sync := true, localTs := 77#32, thisBit := 105#32, buf := 0x0000000010000000#64 } =
      { Regs.reset with ctr := 59#6, sync := true, localTs := 77#32, buf := 0x0000000010000000#64, perr := 1#3 } := by
  decide
/-- V44.8: STATUS with only `SYNC` set; V44.20: a reserved number. -/
theorem test_read :
    answer (.read 0x07#8) { Regs.reset with sync := true } = some ⟨true, 2#32⟩ ∧
    answer (.read 0x13#8) Regs.reset = some ⟨false, 0#32⟩ := by decide
/-- P2 steps 11 and 12: the halves of BUF. -/
theorem test_read_halves :
    answer (.read 0x01#8) { Regs.reset with buf := 0x27FFFFFFFFFFFFFE#64 } = some ⟨true, 0xFFFFFFFE#32⟩ ∧
    answer (.read 0x02#8) { Regs.reset with buf := 0x27FFFFFFFFFFFFFE#64 } = some ⟨true, 0x27FFFFFF#32⟩ := by decide
/-- V42.15 and V42.18. -/
theorem test_b2d :
    answer (.b2d 0x1A#8) Regs.reset = some ⟨true, 20#32⟩ ∧ answer (.b2d 0xFF#8) Regs.reset = some ⟨true, 165#32⟩ := by
  decide
/-- V42.25 and V42.27. -/
theorem test_d2b :
    answer (.d2b 100#8) Regs.reset = some ⟨true, 0xA0#32⟩ ∧
    answer (.d2b 255#8) Regs.reset = some ⟨true, 0x195#32⟩ := by decide
/-- V42.1: the base frame's fields, decoded from `BUF`. -/
theorem test_decode_frame :
    decodeFrame { Regs.reset with buf := 0x049A2D1286B40000#64 } =
      { Regs.reset with
        buf := 0x049A2D1286B40000#64, minBcd := 0x35#7, hourBcd := 0x14#6, dayBcd := 0x11#6
        monthBcd := 0x11#5, yearBcd := 0x26#8, flags := 0x08#5 } := by decide
/-- V42.7, V42.8, V42.6 and V42.9: the masks. -/
theorem test_parity_masks :
    [0x049A2D1A96B40000#64, 0x009A2D1A96B40000#64, 0x049A251286B40000#64, 0x049A2D1286B40001#64].map parityMask =
      [3#3, 7#3, 4#3, 0#3] := by decide
/-- V43.2: a summer date, under `MakeTimeCivil`. -/
theorem test_build_summer :
    let r := buildWith civilMakeTime { Regs.reset with
      yearBcd := 0x26#8, monthBcd := 0x07#5, dayBcd := 0x04#6
      hourBcd := 0x09#6, minBcd := 0x05#7, flags := 0x04#5 }
    (r.localTs, r.regionalTs, r.utcTs) = (1783155900#32, 1783152300#32, 1783148700#32) := by decide
/-- V43.5: the offsets wrap. -/
theorem test_build_wraps :
    let r := buildWith (fun _ _ _ _ _ _ => 1000#32) { Regs.reset with flags := 0x04#5 }
    (r.localTs, r.regionalTs, r.utcTs) = (1000#32, 4294964696#32, 4294961096#32) := by decide

/-! ### Witnesses: each statement's hypotheses are met, clause by clause -/

/-- A frame whose parity is clean and whose slot 58 is still to come (P3 without its last bit). -/
def frameBefore58 : Frame := 0x009A2D1286B40000#64

theorem witness_mask_match_rows :
    0x000000000#36 &&& 0xFFFFFFFFF#36 = 0x000000000#36 ∧ 0x100000000#36 &&& 0xFFFFFFFFF#36 = 0x100000000#36 ∧
    0x2FFFFFFFF#36 &&& 0xF00000000#36 = 0x200000000#36 ∧ 0x3FFFFFFFF#36 &&& 0xF00000000#36 = 0x300000000#36 ∧
    0x4000000FF#36 &&& 0xFFFFFFF00#36 = 0x400000000#36 ∧ 0x5000000FF#36 &&& 0xFFFFFFF00#36 = 0x500000000#36 ∧
    0x6000000FF#36 &&& 0xFFFFFFF00#36 = 0x600000000#36 := by decide
/-- The words next to the table: the first reserved operation code, and the first must-be-zero bit of each format. -/
theorem witness_mask_match_none :
    ∀ w ∈ [0x700000000#36, 0x000000001#36, 0x400000100#36], ∀ i : Instr, w &&& tableMask i ≠ tableMatch i := by
  intro w h i
  simp only [List.mem_cons, List.not_mem_nil, or_false] at h
  obtain rfl | rfl | rfl := h <;> cases i <;> simp only [tableMask, tableMatch] <;> decide
theorem witness_word_of_one_request : decode 0x2FFFFFFFF#36 = .ok (.edgeOff 0xFFFFFFFF#32) := by rfl
theorem witness_illegal_words :
    decode 0x700000000#36 = .error .illegalWord ∧ decode 0x6FFFFFFFF#36 = .error .nonzeroSbz ∧
    decode 0x000000001#36 = .error .nonzeroSbz ∧ decode 0x180000000#36 = .error .nonzeroSbz ∧
    decode 0x400000100#36 = .error .nonzeroSbz := ⟨rfl, rfl, rfl, rfl, rfl⟩
theorem witness_step_host :
    decode 0x200001388#36 = .ok (.edgeOff 5000#32) ∧
    (State.reset.withFetchWord 40 0x200001388).inputs = .host 0x200001388#36 :: [] := ⟨rfl, rfl⟩
theorem witness_step_edge :
    decode 0x3000013EC#36 = .ok (.edgeOn 5100#32) ∧
    ({ State.reset with inputs := [.edge 0x3000013EC#36] } : State).inputs = .edge 0x3000013EC#36 :: [] := ⟨rfl, rfl⟩
/-- A word that spells no request, from either source alone. -/
theorem witness_step_illegal :
    decode 0x700000000#36 = .error .illegalWord ∧ decode 0x100000001#36 = .error .nonzeroSbz ∧
    (State.reset.withFetchWord 40 0x700000000).inputs = .host 0x700000000#36 :: [] ∧
    ({ State.reset with inputs := [.edge 0x100000001#36] } : State).inputs = .edge 0x100000001#36 :: [] :=
  ⟨rfl, rfl, rfl, rfl⟩
theorem witness_idle_port : State.reset.inputs = [] := rfl
theorem witness_simultaneous :
    ({ State.reset with inputs := [.both 0x200001388#36 0x400000000#36] } : State).inputs =
      .both 0x200001388#36 0x400000000#36 :: [] ∧
    (∀ i, decode 0x400000000#36 = .ok i → i ≠ .poll ∧ (∀ now, i ≠ .edgeOff now) ∧ (∀ now, i ≠ .edgeOn now)) := by
  refine ⟨rfl, fun i h => ?_⟩
  obtain rfl : Instr.read 0x00#8 = i := Except.ok.inj h
  exact ⟨nofun, nofun, nofun⟩
/-- An edge request beside an ILLEGAL host word. -/
theorem witness_simultaneous_illegal :
    ({ State.reset with inputs := [.both 0x200001388#36 0x700000000#36] } : State).inputs =
      .both 0x200001388#36 0x700000000#36 :: [] ∧
    (∀ i, decode 0x700000000#36 = .ok i → i ≠ .poll ∧ (∀ now, i ≠ .edgeOff now) ∧ (∀ now, i ≠ .edgeOn now)) :=
  ⟨rfl, nofun⟩
theorem witness_error_reasons :
    decode 0x700000000#36 = .error .illegalWord ∧ decode 0x100000001#36 = .error .nonzeroSbz ∧
    decode 0x400000013#36 = .ok (.read 0x13#8) ∧ 0x12 < (0x13#8).toNat := ⟨rfl, rfl, rfl, by decide⟩
theorem witness_step_is_no_reset : ∀ rest, State.reset.inputs ≠ .reset :: rest := nofun
theorem witness_reset :
    ({ launch { Regs.reset with ctr := 7#6 } with inputs := [.reset] } : State).inputs = .reset :: [] := rfl
theorem witness_only_edges : ∀ i ∈ [Instr.edgeOff 5000#32, .edgeOn 5100#32],
    (∃ t, i = .edgeOff t) ∨ (∃ t, i = .edgeOn t) := by
  intro i h
  simp only [List.mem_cons, List.not_mem_nil, or_false] at h
  obtain rfl | rfl := h
  · exact .inl ⟨_, rfl⟩
  · exact .inr ⟨_, rfl⟩
theorem witness_marker_poll :
    let r := { Regs.reset with som := 70000#32, tp := true, thisBit := 105#32, ctr := 59#6 }
    r.som ≠ 0#32 ∧ r.tp = true ∧ 100 ≤ r.thisBit.toNat ∧ r.thisBit.toNat < 220 := by decide
theorem witness_skip_below :
    let r := { Regs.reset with thisBit := 99#32, ctr := 3#6 }
    ¬(r.som ≠ 0#32 ∧ r.tp = true) ∧ r.thisBit.toNat < 100 := by decide
theorem witness_skip_above :
    let r := { Regs.reset with thisBit := 220#32, ctr := 3#6, tp := true }
    ¬(r.som ≠ 0#32 ∧ r.tp = true) ∧ 220 ≤ r.thisBit.toNat := by decide
theorem witness_accepts_low :
    let r := { Regs.reset with thisBit := 100#32, ctr := 3#6 }
    acceptsBit r ∧ ¬(nextSlot r = 58 ∧ r.sync = true) := by decide
/-- Slot 58 with `SYNC` = 0, at the top of the range (S7). -/
theorem witness_accepts_high :
    let r := { Regs.reset with thisBit := 219#32, ctr := 58#6 }
    acceptsBit r ∧ nextSlot r = 58 ∧ ¬(nextSlot r = 58 ∧ r.sync = true) := by decide
theorem witness_decode_parity_error :
    let r := { Regs.reset with thisBit := 105#32, ctr := 58#6, sync := true, buf := frameBefore58 }
    acceptsBit r ∧ nextSlot r = 58 ∧ r.sync = true ∧ parityMask (frameAfterBit r) = 4#3 ∧
      parityMask (frameAfterBit r) ≠ 0#3 := by decide
theorem witness_decode_clean :
    let r := { Regs.reset with thisBit := 205#32, ctr := 58#6, sync := true, buf := frameBefore58 }
    acceptsBit r ∧ nextSlot r = 58 ∧ r.sync = true ∧ parityMask (frameAfterBit r) = 0#3 := by decide
theorem witness_resynchronisation :
    let r := { Regs.reset with thisBit := 205#32, ctr := 62#6, som := 9000#32, buf := 0x7FFFFFFFFFFFFFFF#64 }
    acceptsBit r ∧ r.som ≠ 0#32 := by decide
theorem witness_slot_one :
    let r := { Regs.reset with thisBit := 105#32, ctr := 1#6, perr := 5#3, localTs := 11#32 }
    acceptsBit r ∧ r.som = 0#32 ∧ r.ctr = 1#6 ∧ nextSlot r = 1 := by decide
theorem witness_sync_capture :
    let r := { Regs.reset with thisBit := 205#32, ctr := 20#6 }
    acceptsBit r ∧ nextSlot r = 20 := by decide
theorem witness_no_sync_capture :
    ¬(acceptsBit { Regs.reset with thisBit := 205#32, ctr := 21#6 } ∧
        nextSlot { Regs.reset with thisBit := 205#32, ctr := 21#6 } = 20) ∧
    ¬acceptsBit { Regs.reset with ctr := 20#6 } := by decide
theorem witness_overrun :
    let r := { Regs.reset with thisBit := 205#32, ctr := 62#6 }
    62 ≤ r.ctr.toNat ∧ r.som = 0#32 ∧ acceptsBit r := by decide
theorem witness_overrun_slot_63 :
    let r := { Regs.reset with thisBit := 205#32, ctr := 63#6 }
    62 ≤ r.ctr.toNat ∧ r.som = 0#32 ∧ acceptsBit r := by decide
theorem witness_overrun_no_bit :
    let r := { Regs.reset with ctr := 62#6 }
    62 ≤ r.ctr.toNat ∧ r.som = 0#32 ∧ ¬acceptsBit r := by decide
/-- V70.2: the state before the spurious marker, `EDGE_OFF 12000`. -/
theorem witness_missed_poll :
    let r := { Regs.reset with pulseStart := 11000#32, lastPulseStart := 10000#32, thisBit := 205#32, ctr := 1#6 }
    r.tp = false ∧ 100 ≤ r.thisBit.toNat ∧ r.thisBit.toNat < 220 ∧ 1700 < (12000#32 - r.lastPulseStart).toNat ∧
      12000#32 ≠ 0#32 := by decide
theorem witness_two_digit_codes :
    (0x99#8).toNat / 16 ≤ 9 ∧ (0x99#8).toNat % 16 ≤ 9 ∧ (0#8).toNat / 16 ≤ 9 ∧ (99#8).toNat ≤ 99 := by decide
theorem witness_offsets_wrap :
    let r := buildWith (fun _ _ _ _ _ _ => 1000#32) { Regs.reset with flags := 0x04#5 }
    r.localTs.toNat < 3600 ∧ r.localTs.toNat < 7200 ∧ ({ Regs.reset with flags := 0x04#5 } : Regs).flags.getLsbD 2 = true := by
  decide
/-- V43.4, the last minute of a DCF77 century: a real instant, and a calendar function that has the named property. -/
theorem witness_real_date :
    let r := { Regs.reset with
      yearBcd := 0x99#8, monthBcd := 0x12#5, dayBcd := 0x31#6, hourBcd := 0x23#6
      minBcd := 0x59#7 }
    MakeTimeCivil civilMakeTime ∧ bcdToDec r.yearBcd ≤ 99 ∧
      realInstant 0#8 (bcdArg (r.minBcd.zeroExtend 8)) (bcdArg (r.hourBcd.zeroExtend 8))
        (bcdArg (r.dayBcd.zeroExtend 8)) (bcdArg (r.monthBcd.zeroExtend 8)) (yearArg r.yearBcd) :=
  ⟨civilMakeTime_is_civil, by decide, by decide⟩
/-- Two register sets that differ in every flag but Z1 and in the buffer. -/
theorem witness_fields_and_z1 :
    let r := { Regs.reset with flags := 0x04#5 }
    let r' := { Regs.reset with flags := 0x1F#5, buf := 1#64 }
    r.minBcd = r'.minBcd ∧ r.hourBcd = r'.hourBcd ∧ r.dayBcd = r'.dayBcd ∧ r.monthBcd = r'.monthBcd ∧
      r.yearBcd = r'.yearBcd ∧ r.flags.getLsbD 2 = r'.flags.getLsbD 2 ∧ r ≠ r' := by decide
theorem witness_reserved_numbers : 0x12 < (0x13#8).toNat ∧ 0x12 < (0xFF#8).toNat := by decide
/-- The largest counter of a run, and a step from it. -/
theorem witness_counter_invariant :
    let s := (launch { Regs.reset with ctr := 62#6, thisBit := 205#32 }).withFetchWord 40 0x100000000
    counterInRange s.regs ∧ ∃ s', step s = .next s' ∧ s'.regs.ctr = 0#6 := ⟨by decide, _, rfl, by decide⟩
theorem witness_sync_invariant :
    let s := (launch { Regs.reset with ctr := 20#6, thisBit := 205#32 }).withFetchWord 40 0x100000000
    syncMatchesSlot s.regs ∧ ∃ s', step s = .next s' ∧ 20 < s'.regs.ctr.toNat ∧ s'.regs.sync = true :=
  ⟨by decide, _, rfl, by decide, by decide⟩
/-- The slot-1 bit takes the timestamps from the builder's offsets to all clear. -/
theorem witness_timestamp_invariant :
    let s := (launch { Regs.reset with ctr := 1#6, thisBit := 105#32, localTs := 7200#32, regionalTs := 3600#32 }).withFetchWord
      40 0x100000000
    timestampsConsistent s.regs ∧ ∃ s', step s = .next s' ∧ s'.regs.localTs = 0#32 := ⟨by decide, _, rfl, by decide⟩
/-- A clean decode: `TP` rises, whatever `MakeTime` is. -/
theorem witness_tp_rises :
    let s := (launch { Regs.reset with thisBit := 205#32, ctr := 58#6, sync := true, buf := frameBefore58 }).withFetchWord
      40 0x100000000
    ∃ s', step s = .next s' ∧ s.regs.tp = false ∧ s'.regs.tp = true := ⟨_, rfl, rfl, rfl⟩
theorem witness_tp_falls_announced :
    let s := (launch { Regs.reset with som := 70000#32, tp := true }).withFetchWord 40 0x100000000
    ∃ s', step s = .next s' ∧ s.regs.tp = true ∧ s'.regs.tp = false := ⟨_, rfl, rfl, rfl⟩
theorem witness_tp_falls_reset :
    let s : State := { launch { Regs.reset with tp := true } with inputs := [.reset] }
    ∃ s', step s = .next s' ∧ s.regs.tp = true ∧ s'.regs.tp = false := ⟨_, rfl, rfl, rfl⟩
/-- A step that changes the results and one that moves `LAST_PULSE_START`: the slot-1 bit. -/
theorem witness_step_with_a_bit :
    let s := (launch { Regs.reset with ctr := 1#6, thisBit := 105#32, pulseStart := 11000#32, perr := 5#3 }).withFetchWord 40
      0x100000000
    ∃ s', step s = .next s' ∧ ¬sameResults s.regs s'.regs ∧ s'.regs.lastPulseStart ≠ s.regs.lastPulseStart :=
  ⟨_, rfl, by decide, by decide⟩
/-- A clean minute (P3's frame, from reset), and the same with the sync slot 0 (P5's frame). -/
theorem witness_minute :
    State.reset.regs.tp = false ∧ BitVec.ofNat 32 10000 ≠ 0#32 ∧
      1700 < (BitVec.ofNat 32 10000 - State.reset.regs.lastPulseStart).toNat ∧
      (0x049A2D1286B40000#64).getLsbD 20 = true ∧ parityMask 0x049A2D1286B40000#64 = 0#3 ∧
      (0x049A2D1286A40000#64).getLsbD 20 = false := by decide
theorem witness_pseudo_requests : 4294967295 < 2 ^ 32 ∧ 4294967295 < 2 ^ 32 ∧ 1 < 2 := by decide
theorem witness_out_of_range_operands : 2 ^ 32 ≤ 4294967296 ∧ 256 ≤ 256 ∧ 2 ≤ 2 := by decide
theorem witness_assembled_text : assembleText ['P', 'O', 'L', 'L'] = some [0x100000000#36] := by decide
/-- A line inside a minute, and one after a minute gap. -/
theorem witness_bit_line :
    State.reset.regs.tp = false ∧ 70000 < 2 ^ 32 ∧
      1700 < (BitVec.ofNat 32 70000 - State.reset.regs.lastPulseStart).toNat ∧ 70000 ≠ 0 ∧
      ¬1700 < (BitVec.ofNat 32 1000 - State.reset.regs.lastPulseStart).toNat := by decide

end Sys2Proof.Tests
end

/-! The family 10_state.md: which registers a request may write (R36), when the marker is set (R23) and when `TP` rises and
falls (R29). -/

namespace Sys2Proof.Proofs

open Sys2Proof.Machine Sys2Proof.Safety Sys2Proof.Laws

/-! ### The pulse sampler -/

/-- The modular difference of two clock readings on numbers. -/
theorem ms_sub_toNat (now last : Ms) :
    (now - last).toNat = (now.toNat + 2 ^ 32 - last.toNat) % 2 ^ 32 := by
  have hlast := last.isLt
  rw [BitVec.toNat_sub]
  congr 1
  omega

theorem gapDetect_iff (now last : Ms) :
    gapDetect now last = true ↔ 1700 < (now.toNat + 2 ^ 32 - last.toNat) % 2 ^ 32 := by
  rw [gapDetect, decide_eq_true_iff, ms_sub_toNat]

theorem sampleOff_som_ne_zero_iff (now : Ms) (r : Regs) :
    (sampleOff now r).som ≠ 0#32 ↔ gapDetect now r.lastPulseStart = true ∧ now ≠ 0#32 := by
  rw [sampleOff_som]
  by_cases gap : gapDetect now r.lastPulseStart = true <;> simp [gap]

/-- Settles O14: EDGE_OFF writes `now` into the marker on a gap and 0 otherwise, so a gap at `now` = 0 leaves it clear. -/
theorem markerIsSetExactlyOnAGap : Obligations.MarkerIsSetExactlyOnAGap := by
  intro now s
  refine ⟨_, exec_eq (.edgeOff now) s, ?_⟩
  rw [← gapDetect_iff]
  exact sampleOff_som_ne_zero_iff now s.regs

/-! ### Ownership -/

theorem sampleOff_sameBeyondSampler (now : Ms) (r : Regs) : sameBeyondSampler r (sampleOff now r) := rfl

theorem sampleOn_sameBeyondSampler (now : Ms) (r : Regs) : sameBeyondSampler r (sampleOn now r) := rfl

/-- POLL writes none of the registers that the pulse sampler alone owns. -/
theorem pollRegs_keeps_sampler (r : Regs) :
    (pollRegs r).pulseStart = r.pulseStart ∧ (pollRegs r).som = r.som ∧ (pollRegs r).ind = r.ind := by
  rcases pollRegs_cases r with ⟨-, marker⟩ | ⟨-, -, skipped⟩ | ⟨-, accepted⟩
  · simp [marker]
  · simp [skipped]
  · simp [accepted]

/-- Settles O15, request by request: the two edges stay inside the sampler's registers, POLL outside those the sampler alone
owns, and the other four requests write none. -/
theorem ownershipOfTheRegisters : Obligations.OwnershipOfTheRegisters := by
  intro i s
  refine ⟨_, exec_eq i s, ?_, ?_, ?_⟩
  · rintro now (rfl | rfl)
    · exact sampleOff_sameBeyondSampler now s.regs
    · exact sampleOn_sameBeyondSampler now s.regs
  · rintro rfl
    exact pollRegs_keeps_sampler s.regs
  · rintro (rfl | ⟨x, rfl⟩ | ⟨v, rfl⟩ | ⟨v, rfl⟩) <;> rfl

/-! ### The flag `TP` -/

/-- Of the requests only POLL writes `TP`. -/
theorem regsAfter_tp_of_ne_poll {i : Instr} (h : i ≠ .poll) (r : Regs) : (regsAfter i r).tp = r.tp := by
  cases i with
  | poll => exact absurd rfl h
  | _ => rfl

/-- A word that changes `TP` spells POLL. -/
theorem decode_eq_poll_of_tp_ne {w : ReqWord} {r : Regs} (h : (regsAfterWord w r).tp ≠ r.tp) : decode w = .ok .poll := by
  unfold regsAfterWord at h
  cases hw : decode w with
  | error e => simp [hw] at h
  | ok i =>
    rw [hw] at h
    by_contra hi
    exact h (regsAfter_tp_of_ne_poll (by simpa using hi) r)

/-- A step that changes `TP` is a POLL or a RESET. -/
theorem step_poll_or_reset_of_tp_ne {s s' : State} (hs : step s = .next s') (h : s'.regs.tp ≠ s.regs.tp) :
    (s'.regs = pollRegs s.regs ∧ s'.response = some ⟨true, pollData s.regs⟩) ∨
      (s'.regs = Regs.reset ∧ s'.response = none) := by
  obtain ⟨t, ht, c⟩ := step_cases s
  rw [hs] at ht
  cases ht
  rcases c with ⟨w, hregs, hresp⟩ | hreset
  · have hw : decode w = .ok .poll := decode_eq_poll_of_tp_ne (hregs ▸ h)
    rw [regsAfterWord, hw] at hregs
    rw [responseToWord, hw] at hresp
    exact .inl ⟨hregs, hresp⟩
  · exact .inr hreset

/-- An accepted bit leaves `TP` as it was, or step 3i decodes a frame with a clean mask and publishes (R82): where step 3a
clears `TP`, it is 0 already (R74). -/
theorem accept_tp_cases (r : Regs) (accepts : acceptsBit r) :
    (pollRegs r).tp = r.tp ∨
      ((nextSlot r = 58 ∧ r.sync = true) ∧ parityMask (frameAfterBit r) = 0#3 ∧
        pollRegs r = publish (buildWith Config.makeTime (decodeFrame (collectBit (mirrorInd r))))) := by
  obtain ⟨keeps, -⟩ := accept_keeps r accepts
  rcases accept_cases r accepts with ⟨-, bit⟩ | ⟨-, -, parityError⟩ | clean
  · exact .inl (bit ▸ keeps)
  · left
    rw [parityError]
    exact keeps
  · exact .inr clean

/-- POLL clears `TP` only by step 1. -/
theorem pollRegs_tp_falls {r : Regs} (h1 : r.tp = true) (h0 : (pollRegs r).tp = false) :
    r.som ≠ 0#32 ∧ pollRegs r = { r with tp := false } := by
  rcases pollRegs_cases r with ⟨⟨som, -⟩, marker⟩ | ⟨-, -, skipped⟩ | ⟨accepts, -⟩
  · exact ⟨som, marker⟩
  · simp [skipped, h1] at h0
  · rcases accept_tp_cases r accepts with kept | ⟨-, -, published⟩
    · simp [kept, h1] at h0
    · simp [published] at h0

/-- POLL sets `TP` only where step 3i publishes. -/
theorem pollRegs_tp_rises {r : Regs} (h0 : r.tp = false) (h1 : (pollRegs r).tp = true) :
    acceptsBit r ∧ (nextSlot r = 58 ∧ r.sync = true) ∧ parityMask (frameAfterBit r) = 0#3 ∧
      pollRegs r = publish (buildWith Config.makeTime (decodeFrame (collectBit (mirrorInd r)))) := by
  rcases pollRegs_cases r with ⟨-, marker⟩ | ⟨-, -, skipped⟩ | ⟨accepts, -⟩
  · simp [marker] at h1
  · simp [skipped, h0] at h1
  · rcases accept_tp_cases r accepts with kept | published
    · simp [kept, h0] at h1
    · exact ⟨accepts, published⟩

/-- The bit goes to slot 58 only without the marker, which sends it to slot 0. -/
theorem nextSlot_eq_58_iff (r : Regs) : nextSlot r = 58 ↔ r.som = 0#32 ∧ r.ctr = 58#6 := by
  unfold nextSlot
  by_cases som : r.som = 0#32 <;> simp [som, ← BitVec.toNat_inj]

/-- The regional time is one hour behind the local time, modulo 2^32 (R102). -/
theorem buildWith_local_sub_regional (mt : Config.MakeTime) (r : Regs) :
    (buildWith mt r).localTs - (buildWith mt r).regionalTs = 3600#32 := by
  rw [buildWith_localTs, buildWith_regionalTs, sub_sub_cancel]

/-- UTC is behind the local time by the offset that Z1 selects, modulo 2^32 (R102, R104). -/
theorem buildWith_local_sub_utc (mt : Config.MakeTime) (r : Regs) :
    (buildWith mt r).localTs - (buildWith mt r).utcTs = if r.flags.getLsbD 2 then 7200#32 else 3600#32 := by
  rw [buildWith_localTs, buildWith_utcTs, sub_sub_cancel]
  rfl

/-- What registers published after a clean decode hold: the mask of their own buffer and the builder's offsets. -/
theorem published_results {mt : Config.MakeTime} {c r : Regs} (h : r = publish (buildWith mt (decodeFrame c))) :
    r.perr = parityMask r.buf ∧ r.localTs - r.regionalTs = 3600#32 ∧
      r.localTs - r.utcTs = if r.flags.getLsbD 2 then 7200#32 else 3600#32 := by
  subst h
  exact ⟨by simp, buildWith_local_sub_regional mt _, buildWith_local_sub_utc mt _⟩

/-- Settles O47: the step is a POLL whose step 3i publishes, and the registers it leaves are those of the build. -/
theorem tpRisesOnlyOnACleanDecode : Obligations.TpRisesOnlyOnACleanDecode := by
  intro s s' hs h0 h1
  rcases step_poll_or_reset_of_tp_ne hs (by simp [h0, h1]) with ⟨hpoll, -⟩ | ⟨hreset, -⟩
  · obtain ⟨accepts, ⟨slot, sync⟩, clean, published⟩ := pollRegs_tp_rises h0 (hpoll ▸ h1)
    obtain ⟨-, -, -, buf', ctr', sync', -⟩ := accept_poll_writes s.regs accepts
    obtain ⟨som, ctr⟩ := (nextSlot_eq_58_iff s.regs).1 slot
    obtain ⟨perr', regional', utc'⟩ := published_results published
    rw [buf', clean] at perr'
    rw [slot] at ctr' sync'
    rw [hpoll]
    exact ⟨accepts, som, ctr, ctr', sync, sync'.trans sync, perr', buf' ▸ clean, regional', utc'⟩
  · simp [hreset, Regs.reset] at h1

/-- Settles O48: a POLL that clears `TP` is at its step 1, whose response is the marker; every other cause is RESET. -/
theorem tpFallsOnlyWhenAnnouncedOrReset : Obligations.TpFallsOnlyWhenAnnouncedOrReset := by
  intro s s' hs h1 h0
  rcases step_poll_or_reset_of_tp_ne hs (by simp [h0, h1]) with ⟨hpoll, hresp⟩ | hreset
  · obtain ⟨som, cleared⟩ := pollRegs_tp_falls h1 (hpoll ▸ h0)
    rw [pollData_eq, if_pos ⟨som, h1⟩] at hresp
    exact .inl ⟨som, hresp, hpoll.trans cleared⟩
  · exact .inr hreset

end Sys2Proof.Proofs

/-! The family 20_memory.md: one request at a time in an order of the sources (R46, R47), a POLL repeated (R44), and the buffer
read in two halves (R49). -/

namespace Sys2Proof.Proofs

open Sys2Proof.Machine Sys2Proof.Safety Sys2Proof.Laws

/-! ### One request at a time -/

theorem perform_of_decode_ok {w : ReqWord} {i : Instr} (h : decode w = .ok i) (s : State) : perform w s = exec i s := by
  rw [perform, h]

theorem perform_of_decode_error {w : ReqWord} {e : ErrReason} (h : decode w = .error e) (s : State) :
    perform w s = .next { s with response := some ⟨false, 0#32⟩ } := by
  rw [perform, h]
  exact raiseErr_eq e s

theorem step_of_takeInput_word {s s' : State} {w : ReqWord} (h : takeInput s = .word w s') : step s = perform w s' := by
  rw [step, h]

/-- A word that one source presents alone is performed, whichever source it is (R119). -/
theorem step_of_alone {s : State} {w : ReqWord} {rest : List Moment}
    (h : s.inputs = .host w :: rest ∨ s.inputs = .edge w :: rest) : step s = perform w { s with inputs := rest } := by
  rcases h with host | edge
  · exact step_of_takeInput_word (takeInput_host s w rest host)
  · exact step_of_takeInput_word (takeInput_edge s w rest edge)

/-- Settles O5: the step performs the word, and the word spells a request or is answered with the error response. -/
theorem stepPerformsThePresentedRequest : Obligations.StepPerformsThePresentedRequest := by
  intro s w rest h
  have performed := step_of_alone h
  exact ⟨performed, fun i ok => performed.trans (perform_of_decode_ok ok _),
    fun e error => performed.trans (perform_of_decode_error error _)⟩

/-! ### Two requests at one moment -/

/-- The state a word leaves: only the registers and the response differ. -/
def afterWord (w : ReqWord) (s : State) : State :=
  { s with regs := regsAfterWord w s.regs, response := some (responseToWord w s.regs) }

theorem perform_eq_afterWord (w : ReqWord) (s : State) : perform w s = .next (afterWord w s) := perform_eq w s

theorem run_two {s s1 s2 : State} (h1 : step s = .next s1) (h2 : step s1 = .next s2) : core.run 2 s = .next s2 := by
  have first : core.step s = .next s1 := h1
  have second : core.step s1 = .next s2 := h2
  simp only [Host.Core.run, first, second]

/-- The state with both words of the first moment taken. -/
def withBothTaken (rest : List Moment) (s : State) : State := { s with inputs := rest, arbCount := s.arbCount + 1 }

/-- Two words of one moment are both performed, in one order or the other, before anything presented later (R47). -/
theorem run_two_of_both {s : State} {e h : ReqWord} {rest : List Moment} (hi : s.inputs = .both e h :: rest) :
    core.run 2 s = .next (afterWord h (afterWord e (withBothTaken rest s))) ∨
      core.run 2 s = .next (afterWord e (afterWord h (withBothTaken rest s))) := by
  rcases takeInput_both s e h rest hi with edgeFirst | hostFirst
  · left
    exact run_two ((step_of_takeInput_word edgeFirst).trans (perform_eq_afterWord e _))
      ((step_of_alone (.inl rfl)).trans (perform_eq_afterWord h _))
  · right
    exact run_two ((step_of_takeInput_word hostFirst).trans (perform_eq_afterWord h _))
      ((step_of_alone (.inr rfl)).trans (perform_eq_afterWord e _))

/-- Settles O7, order by order. -/
theorem simultaneousRequestsRunInOneOrderOrTheOther : Obligations.SimultaneousRequestsRunInOneOrderOrTheOther := by
  intro s e h rest hi
  rcases run_two_of_both hi with edgeFirst | hostFirst
  · exact ⟨_, edgeFirst, rfl, .inl ⟨_, perform_eq_afterWord e _, perform_eq_afterWord h _⟩⟩
  · exact ⟨_, hostFirst, rfl, .inr ⟨_, perform_eq_afterWord h _, perform_eq_afterWord e _⟩⟩

/-- A word that spells neither a POLL nor an edge request writes no register (R36, R111). -/
theorem regsAfterWord_of_no_writer {w : ReqWord}
    (h : ∀ i, decode w = .ok i → i ≠ .poll ∧ (∀ now, i ≠ .edgeOff now) ∧ (∀ now, i ≠ .edgeOn now)) (r : Regs) :
    regsAfterWord w r = r := by
  unfold regsAfterWord
  cases hw : decode w with
  | error e => rfl
  | ok i =>
    obtain ⟨notPoll, notOff, notOn⟩ := h i hw
    cases i with
    | poll => exact absurd rfl notPoll
    | edgeOff now => exact absurd rfl (notOff now)
    | edgeOn now => exact absurd rfl (notOn now)
    | _ => rfl

/-- Settles O8: the host's word writes no register, before the edge source's word or after it. -/
theorem arbitrationShowsOnlyWithAPollOrEdgeHostWord : Obligations.ArbitrationShowsOnlyWithAPollOrEdgeHostWord := by
  intro s e h rest hi noWriter
  have hostKeeps := regsAfterWord_of_no_writer noWriter
  rcases run_two_of_both hi with edgeFirst | hostFirst
  · exact ⟨_, _, edgeFirst, perform_eq_afterWord e s, hostKeeps _⟩
  · exact ⟨_, _, hostFirst, perform_eq_afterWord e s, congrArg (regsAfterWord e) (hostKeeps _)⟩

/-! ### The buffer in two halves -/

/-- The edge requests leave the buffer alone (R36). -/
theorem regsAfter_edge_buf {i : Instr} (h : (∃ t, i = .edgeOff t) ∨ (∃ t, i = .edgeOn t)) (r : Regs) :
    (regsAfter i r).buf = r.buf := by
  rcases h with ⟨t, rfl⟩ | ⟨t, rfl⟩ <;> rfl

theorem regsAfterAll_edges_buf {es : List Instr} (h : ∀ i ∈ es, (∃ t, i = .edgeOff t) ∨ (∃ t, i = .edgeOn t)) (r : Regs) :
    (regsAfterAll es r).buf = r.buf := by
  induction es generalizing r with
  | nil => rfl
  | cons i rest ih =>
    obtain ⟨edge, edges⟩ := List.forall_mem_cons.1 h
    calc (regsAfterAll (i :: rest) r).buf = (regsAfter i r).buf := ih edges (regsAfter i r)
      _ = r.buf := regsAfter_edge_buf edge r

/-- Settles O16: the requests between the READs leave the buffer alone, so both halves are of the first state's. -/
theorem bufferHalvesAreReadFromOneBuffer : Obligations.BufferHalvesAreReadFromOneBuffer := by
  intro s es edges
  obtain ⟨resp, between⟩ := execAll_next es _
  have halves : (regsAfterAll es s.regs).buf.extractLsb' 32 32 ++ s.regs.buf.extractLsb' 0 32 = s.regs.buf := by
    rw [regsAfterAll_edges_buf edges]
    exact BitVec.extractLsb'_append_extractLsb' (w := 32) (len := 32)
  exact ⟨_, _, _, _, _, exec_eq (.read 0x01#8) s, rfl, between, exec_eq (.read 0x02#8) _, rfl, halves⟩

/-! ### A second POLL -/

/-- A POLL with no marker to return and no duration in range only mirrors the indicator (R83). -/
theorem pollRegs_of_skips {r : Regs} (marker : ¬(r.som ≠ 0#32 ∧ r.tp = true))
    (skips : ¬(100 ≤ r.thisBit.toNat ∧ r.thisBit.toNat < 220)) : pollRegs r = mirrorInd r := by
  rcases not_accept_cases r (fun accepts => skips accepts.2) with ⟨fires, -⟩ | ⟨-, mirrored⟩
  · exact absurd fires marker
  · exact mirrored

theorem mirrorInd_of_mirrored {r : Regs} (h : r.indOut = r.ind) : mirrorInd r = r := by
  apply regs_ext
  simp [h]

/-- The marker and `TP` are not both set after a POLL that did not find them so: step 3i publishes only where the marker is
clear, so the exception of R44 cannot arise. -/
theorem pollRegs_keeps_marker_away {r : Regs} (marker : ¬(r.som ≠ 0#32 ∧ r.tp = true)) :
    ¬((pollRegs r).som ≠ 0#32 ∧ (pollRegs r).tp = true) := by
  obtain ⟨-, som, -⟩ := pollRegs_keeps_sampler r
  rw [som]
  rintro ⟨set, tp⟩
  have tp0 : r.tp = false := by simpa [set] using marker
  obtain ⟨-, ⟨slot, -⟩, -⟩ := pollRegs_tp_rises tp0 tp
  exact set ((nextSlot_eq_58_iff r).1 slot).1

/-- A POLL past step 1 mirrors the indicator and leaves no duration in range: it consumes the one it accepts (R72, R81). -/
theorem pollRegs_mirrors_and_consumes {r : Regs} (marker : ¬(r.som ≠ 0#32 ∧ r.tp = true)) :
    (pollRegs r).indOut = (pollRegs r).ind ∧
      ¬(100 ≤ (pollRegs r).thisBit.toNat ∧ (pollRegs r).thisBit.toNat < 220) := by
  rcases pollRegs_cases r with ⟨fires, -⟩ | ⟨-, skips, skipped⟩ | ⟨accepts, -⟩
  · exact absurd fires marker
  · rw [skipped]
    exact ⟨rfl, skips⟩
  · obtain ⟨indOut, -, thisBit, -, -, -, -, -, ind⟩ := accept_poll_writes r accepts
    rw [indOut, ind, thisBit]
    exact ⟨rfl, by decide⟩

theorem pollRegs_pollRegs {r : Regs} (marker : ¬(r.som ≠ 0#32 ∧ r.tp = true)) : pollRegs (pollRegs r) = pollRegs r := by
  obtain ⟨mirrored, skips⟩ := pollRegs_mirrors_and_consumes marker
  rw [pollRegs_of_skips (pollRegs_keeps_marker_away marker) skips, mirrorInd_of_mirrored mirrored]

/-- Settles O27: the first POLL leaves nothing for the second to return, mirror or consume. -/
theorem aSecondPollChangesNothing : Obligations.ASecondPollChangesNothing := by
  intro s marker
  have noData : pollData (pollRegs s.regs) = 0#32 := by
    rw [pollData_eq, if_neg (pollRegs_keeps_marker_away marker)]
  refine ⟨_, _, exec_eq .poll s, exec_eq .poll _, pollRegs_pollRegs marker, ?_⟩
  exact congrArg (fun data => some (Response.mk true data)) noData

end Sys2Proof.Proofs

/-! The family 30_encoding.md: words and requests (R52 to R58, R62), and the textual form with its two pseudo-requests (R60,
R61). -/

namespace Sys2Proof.Proofs

open Sys2Proof.Machine Sys2Proof.Safety Sys2Proof.Laws

/-! ### The fields of a word -/

@[simp] theorem opField_formatT (op : BitVec 4) (t : Ms) : opField (formatT op t) = op :=
  BitVec.extractLsb'_append_eq_left

@[simp] theorem timeOperand_formatT (op : BitVec 4) (t : Ms) : timeOperand (formatT op t) = t :=
  BitVec.extractLsb'_append_eq_right

@[simp] theorem opField_formatB (op : BitVec 4) (v : BitVec 8) : opField (formatB op v) = op :=
  opField_formatT op (0#24 ++ v)

theorem payload_formatB (op : BitVec 4) (v : BitVec 8) : payload (formatB op v) = 0#24 ++ v :=
  timeOperand_formatT op (0#24 ++ v)

@[simp] theorem byteOperand_formatB (op : BitVec 4) (v : BitVec 8) : byteOperand (formatB op v) = v := by
  rw [byteOperand, payload_formatB]
  exact BitVec.extractLsb'_append_eq_right

@[simp] theorem sbzClearB_formatB (op : BitVec 4) (v : BitVec 8) : sbzClearB (formatB op v) = true := by
  rw [sbzClearB, payload_formatB, beq_iff_eq]
  exact BitVec.extractLsb'_append_eq_left

/-- Every word is one of format T. -/
theorem eq_formatT (w : ReqWord) : w = formatT (opField w) (timeOperand w) := word_eq w

/-- A word with the must-be-zero bits of format Z clear is one of format Z. -/
theorem eq_formatZ_of_sbzClearZ {w : ReqWord} (clear : sbzClearZ w = true) : w = formatZ (opField w) := by
  have zero : payload w = 0#32 := eq_of_beq clear
  rw [formatZ, ← zero]
  exact word_eq w

/-- A word with the must-be-zero bits of format B clear is one of format B. -/
theorem eq_formatB_of_sbzClearB {w : ReqWord} (clear : sbzClearB w = true) :
    w = formatB (opField w) (byteOperand w) := by
  have zero : (payload w).extractLsb' 8 24 = 0#24 := eq_of_beq clear
  have halves : (payload w).extractLsb' 8 24 ++ byteOperand w = payload w :=
    BitVec.extractLsb'_append_extractLsb' (w := 24) (len := 8)
  rw [formatB, ← zero, halves]
  exact word_eq w

/-! ### Words and requests -/

/-- A must-be-zero bit of the word's own format is 1 (R57), on numbers. -/
def HasNonzeroSbz (w : ReqWord) : Prop :=
  ((w.toNat / 2 ^ 32 = 0x0 ∨ w.toNat / 2 ^ 32 = 0x1) ∧ w.toNat % 2 ^ 32 ≠ 0) ∨
    ((w.toNat / 2 ^ 32 = 0x4 ∨ w.toNat / 2 ^ 32 = 0x5 ∨ w.toNat / 2 ^ 32 = 0x6) ∧ w.toNat % 2 ^ 32 / 2 ^ 8 ≠ 0)

/-- The three answers of the decoder, each with what it says of the word. -/
inductive Answers (w : ReqWord) : Except ErrReason Instr → Prop
  | request (i : Instr) (spells : w = encode i) : Answers w (.ok i)
  | nonzeroSbz (nonzero : HasNonzeroSbz w) : Answers w (.error .nonzeroSbz)
  | illegalWord (reserved : 0x7 ≤ w.toNat / 2 ^ 32) : Answers w (.error .illegalWord)

theorem opField_eq_ofNat {w : ReqWord} {n : Nat} (op : (opField w).toNat = n) : opField w = BitVec.ofNat 4 n := by
  rw [← op, BitVec.ofNat_toNat, BitVec.setWidth_eq]

/-- The answer of a row of format Z, with operation code 0 or 1. -/
theorem answers_formatZ {w : ReqWord} {i : Instr} {n : Nat} (op : (opField w).toNat = n) (code : n = 0 ∨ n = 1)
    (row : encode i = formatZ (BitVec.ofNat 4 n)) : Answers w (orNonzeroSbz (sbzClearZ w) i) := by
  unfold orNonzeroSbz
  split
  next clear => exact .request i ((eq_formatZ_of_sbzClearZ clear).trans (opField_eq_ofNat op ▸ row.symm))
  next nonzero =>
    rw [sbzClearZ_iff] at nonzero
    exact .nonzeroSbz (.inl ⟨by rwa [← opField_toNat, op], nonzero⟩)

/-- The answer of a row of format T. -/
theorem answers_formatT {w : ReqWord} {i : Instr} {n : Nat} (op : (opField w).toNat = n)
    (row : encode i = formatT (BitVec.ofNat 4 n) (timeOperand w)) : Answers w (.ok i) :=
  .request i ((eq_formatT w).trans (opField_eq_ofNat op ▸ row.symm))

/-- The answer of a row of format B, with operation code 4, 5 or 6. -/
theorem answers_formatB {w : ReqWord} {i : Instr} {n : Nat} (op : (opField w).toNat = n) (code : n = 4 ∨ n = 5 ∨ n = 6)
    (row : encode i = formatB (BitVec.ofNat 4 n) (byteOperand w)) : Answers w (orNonzeroSbz (sbzClearB w) i) := by
  unfold orNonzeroSbz
  split
  next clear => exact .request i ((eq_formatB_of_sbzClearB clear).trans (opField_eq_ofNat op ▸ row.symm))
  next nonzero =>
    rw [sbzClearB_iff] at nonzero
    exact .nonzeroSbz (.inr ⟨by rwa [← opField_toNat, op], nonzero⟩)

theorem decode_answers (w : ReqWord) : Answers w (decode w) := by
  unfold decode
  split
  next op => exact answers_formatZ op (by decide) rfl
  next op => exact answers_formatZ op (by decide) rfl
  next op => exact answers_formatT op rfl
  next op => exact answers_formatT op rfl
  next op => exact answers_formatB op (by decide) rfl
  next op => exact answers_formatB op (by decide) rfl
  next op => exact answers_formatB op (by decide) rfl
  next =>
    refine .illegalWord ?_
    rw [← opField_toNat]
    simp only [imp_false] at *
    omega

theorem decode_encode (i : Instr) : decode (encode i) = .ok i := by
  cases i with
  | nop => rfl
  | poll => rfl
  | edgeOff now => simp [decode, encode]
  | edgeOn now => simp [decode, encode]
  | read index => simp [decode, encode, orNonzeroSbz]
  | b2d v => simp [decode, encode, orNonzeroSbz]
  | d2b v => simp [decode, encode, orNonzeroSbz]

theorem eq_encode_of_decode_ok {w : ReqWord} {i : Instr} (h : decode w = .ok i) : w = encode i := by
  cases h ▸ decode_answers w with
  | request i spells => exact spells

/-- Settles O1: a word that decodes is spelled out of its fields, and the fields of a request's word are read back. -/
theorem eachWordIsTheWordOfOneRequest : Obligations.EachWordIsTheWordOfOneRequest := by
  intro w i
  refine ⟨eq_encode_of_decode_ok, ?_⟩
  rintro rfl
  exact decode_encode i

/-! ### The mask and match table -/

/-- A word that matches a row of format T is its operation code and its time (R56). -/
theorem eq_formatT_of_mask {w : ReqWord} {op : BitVec 4} (h : w &&& 0xF00000000#36 = formatZ op) :
    w = formatT op (w.extractLsb' 0 32) := by
  have code : opField w = op := by
    have fields := (maskT_eq w).symm.trans h
    exact (BitVec.append_left_inj 0#32).1 fields
  exact code ▸ eq_formatT w

/-- A word that matches a row of format B is its operation code and its byte (R56). -/
theorem eq_formatB_of_mask {w : ReqWord} {op : BitVec 4} (h : w &&& 0xFFFFFFF00#36 = formatZ op) :
    w = formatB op (w.extractLsb' 0 8) := by
  have high : w.toNat / 2 ^ 8 * 2 ^ 8 = op.toNat * 2 ^ 32 := by rw [← maskB_toNat, h, formatZ_toNat]
  apply BitVec.eq_of_toNat_eq
  rw [formatB_toNat, BitVec.extractLsb'_toNat, Nat.shiftRight_zero]
  omega

/-- The word of every request matches its row (R56). -/
theorem encode_and_tableMask (i : Instr) : encode i &&& tableMask i = tableMatch i :=
  match i with
  | .nop => TableBits.nop
  | .poll => TableBits.poll
  | .edgeOff now => TableBits.edgeOff now
  | .edgeOn now => TableBits.edgeOn now
  | .read index => TableBits.read index
  | .b2d v => TableBits.b2d v
  | .d2b v => TableBits.d2b v

theorem decode_error_of_no_row {w : ReqWord} (h : ∀ i, w &&& tableMask i ≠ tableMatch i) : ∃ e, decode w = .error e := by
  cases hw : decode w with
  | error e => exact ⟨e, rfl⟩
  | ok i => exact absurd (eq_encode_of_decode_ok hw ▸ encode_and_tableMask i) (h i)

/-- Settles O2: a word that matches a row is the word of that row's request; the word of any request matches its row. -/
theorem decoderIsTheMaskMatchTable : Obligations.DecoderIsTheMaskMatchTable := by
  intro w
  have spells {i : Instr} (h : w = encode i) : decode w = .ok i := h ▸ decode_encode i
  refine ⟨fun h => ?_, fun h => ?_, fun h => ?_, fun h => ?_, fun h => ?_, fun h => ?_, fun h => ?_, fun h => ?_⟩
  · exact spells ((maskZ_eq w).symm.trans h)
  · exact spells ((maskZ_eq w).symm.trans h)
  · exact spells (eq_formatT_of_mask h)
  · exact spells (eq_formatT_of_mask h)
  · exact spells (eq_formatB_of_mask h)
  · exact spells (eq_formatB_of_mask h)
  · exact spells (eq_formatB_of_mask h)
  · obtain ⟨e, error⟩ := decode_error_of_no_row h
    exact ⟨⟨e, error⟩, perform_of_decode_error error⟩

/-! ### ILLEGAL words -/

theorem decode_of_reserved_op {w : ReqWord} (h : 0x7 ≤ w.toNat / 2 ^ 32) : decode w = .error .illegalWord := by
  obtain ⟨k, hk⟩ := Nat.exists_eq_add_of_le' h
  rw [decode_eq_fields, hk]
  rfl

theorem decode_of_nonzeroSbz {w : ReqWord} (h : HasNonzeroSbz w) : decode w = .error .nonzeroSbz := by
  rw [decode_eq_fields]
  rcases h with ⟨op | op, nonzero⟩ | ⟨op | op | op, nonzero⟩ <;> simp only [op, nonzero, if_false]

/-- Settles O3: the decoder's three answers, each way. -/
theorem illegalWordsAndTheirReasons : Obligations.IllegalWordsAndTheirReasons := by
  intro w
  refine ⟨⟨fun h => ?_, decode_of_reserved_op⟩, ⟨fun h => ?_, decode_of_nonzeroSbz⟩, fun h => ?_,
    fun e => perform_of_decode_error⟩
  · cases h ▸ decode_answers w with
    | illegalWord reserved => exact reserved
  · cases h ▸ decode_answers w with
    | nonzeroSbz nonzero => exact nonzero
  · cases h ▸ decode_answers w

/-- Settles O4: each example word is that of the request named there, and the two ILLEGAL words have their reason's fields. -/
theorem specExampleWordsDecode : Obligations.SpecExampleWordsDecode :=
  ⟨decode_encode .nop, decode_encode .poll, decode_encode (.edgeOff 5000#32), decode_encode (.edgeOn 5100#32),
    decode_encode (.read (regNumber .ctr)), decode_encode (.read (regNumber .utcTs)), decode_encode (.b2d 0x59#8),
    decode_encode (.d2b 59#8), decode_of_nonzeroSbz (.inl (by decide)), decode_of_reserved_op (by decide)⟩

/-! ### The textual form -/

theorem assembleLine_of_wellFormed {l : AsmLine} (h : l.wellFormed = true) :
    assembleLine l = some ((lineRequests l).map encode) := if_pos h

theorem assembleLine_of_not_wellFormed {l : AsmLine} (h : l.wellFormed = false) : assembleLine l = none :=
  if_neg (Bool.not_eq_true _ ▸ h)

/-- Numbers below 2^32 are the time operands of format T. -/
theorem formatT_ofNat (op : BitVec 4) (t : Nat) :
    formatT op (BitVec.ofNat 32 t) = BitVec.ofNat 36 (op.toNat * 2 ^ 32 + t % 2 ^ 32) := by
  apply BitVec.eq_of_toNat_eq
  have := op.isLt
  rw [formatT_toNat, BitVec.toNat_ofNat, BitVec.toNat_ofNat]
  omega

theorem wellFormed_pulse {t d : Nat} (ht : t < 2 ^ 32) (hd : d < 2 ^ 32) : (AsmLine.pulse t d).wellFormed = true :=
  Bool.and_eq_true_iff.2 ⟨decide_eq_true ht, decide_eq_true hd⟩

theorem wellFormed_bit {t b : Nat} (ht : t < 2 ^ 32) (hb : b < 2) : (AsmLine.bit t b).wellFormed = true :=
  Bool.and_eq_true_iff.2 ⟨decide_eq_true ht, decide_eq_true hb⟩

/-- Settles O52: the words of the expansion, on numbers; BIT expands as the PULSE of its length. -/
theorem pseudoRequestsExpand : Obligations.PseudoRequestsExpand := by
  refine ⟨fun t d ht hd => ?_, fun t b ht hb => ?_⟩
  · have offWord : encode (.edgeOff (BitVec.ofNat 32 t)) = BitVec.ofNat 36 (0x200000000 + t) := by
      rw [encode, formatT_ofNat, Nat.mod_eq_of_lt ht]
      rfl
    have onWord : encode (.edgeOn (BitVec.ofNat 32 (t + d))) = BitVec.ofNat 36 (0x300000000 + (t + d) % 2 ^ 32) :=
      formatT_ofNat 0x3#4 (t + d)
    rw [assembleLine_of_wellFormed (wellFormed_pulse ht hd), ← offWord, ← onWord]
    rfl
  · have hd : 100 + 100 * b < 2 ^ 32 := by omega
    rw [assembleLine_of_wellFormed (wellFormed_bit ht hb), assembleLine_of_wellFormed (wellFormed_pulse ht hd)]
    rfl

theorem decode_of_mem_assembleLine {l : AsmLine} {ws : List ReqWord} (h : assembleLine l = some ws) {w : ReqWord}
    (hw : w ∈ ws) : ∃ i, decode w = .ok i := by
  unfold assembleLine at h
  split at h
  · cases h
    obtain ⟨i, -, rfl⟩ := List.mem_map.1 hw
    exact ⟨i, decode_encode i⟩
  · cases h

/-- A line of text spells no word, or those of a line. -/
theorem assembleText_cases {text : List Char} {ws : List ReqWord} (h : assembleText text = some ws) :
    ws = [] ∨ ∃ l, assembleLine l = some ws := by
  unfold assembleText at h
  split at h
  · exact .inl (Option.some.inj h).symm
  · split at h
    · exact .inr ⟨_, h⟩
    · cases h

/-- Settles O53: the assembler writes words by encoding requests, and its range checks are those of `AsmLine.wellFormed`. -/
theorem assemblerWritesOnlyRequests : Obligations.AssemblerWritesOnlyRequests := by
  refine ⟨fun text ws h w hw => ?_, fun t ht => ⟨?_, ?_, fun d => ?_, fun b => ?_⟩, fun n hn => ⟨?_, ?_, ?_⟩,
    fun t b hb => ?_, fun t d hd => ?_⟩
  · rcases assembleText_cases h with rfl | ⟨l, line⟩
    · cases hw
    · exact decode_of_mem_assembleLine line hw
  all_goals
    apply assembleLine_of_not_wellFormed
    simp only [AsmLine.wellFormed, Bool.and_eq_false_iff, decide_eq_false_iff_not]
    omega

/-! ### The line BIT -/

/-- The registers in which the POLL of `PULSE t, d` runs. -/
def pulseRegs (t d : Nat) (r : Regs) : Regs :=
  sampleOn (BitVec.ofNat 32 (t + d)) (sampleOff (BitVec.ofNat 32 t) r)

theorem regsAfterAll_pulseRequests (t d : Nat) (r : Regs) :
    regsAfterAll (pulseRequests t d) r = pollRegs (pulseRegs t d r) := rfl

/-- The waiting duration is the length of the pulse with its padding, whatever the clock reading at its start (R66). -/
theorem pulseRegs_thisBit (t d : Nat) (r : Regs) : (pulseRegs t d r).thisBit = BitVec.ofNat 32 d + 5#32 := by
  simp only [pulseRegs, sampleOn_thisBit, sampleOff_pulseStart, duration, BitVec.ofNat_add, add_sub_cancel_left]

theorem pulseRegs_nextSlot {t : Nat} (ht : t < 2 ^ 32) (d : Nat) (r : Regs) :
    nextSlot (pulseRegs t d r) =
      if 1700 < (BitVec.ofNat 32 t - r.lastPulseStart).toNat ∧ t ≠ 0 then 0 else r.ctr.toNat := by
  have nonzero : BitVec.ofNat 32 t ≠ 0#32 ↔ t ≠ 0 := by
    rw [Ne, ← BitVec.toNat_inj, BitVec.toNat_ofNat, Nat.mod_eq_of_lt ht]
    rfl
  have marker := sampleOff_som_ne_zero_iff (BitVec.ofNat 32 t) r
  rw [nonzero, gapDetect, decide_eq_true_iff] at marker
  exact if_congr marker rfl rfl

/-- The pulse of `BIT t, b` waits as an accepted duration of the bit `b` (R73, R77). -/
theorem pulseRegs_bit {t b : Nat} (hb : b < 2) {r : Regs} (tp : r.tp = false) :
    acceptsBit (pulseRegs t (100 + 100 * b) r) ∧ bitValue (pulseRegs t (100 + 100 * b) r) = decide (b = 1) := by
  have noMarker : (pulseRegs t (100 + 100 * b) r).tp = false := tp
  have length : (pulseRegs t (100 + 100 * b) r).thisBit.toNat = 105 + 100 * b := by
    rw [pulseRegs_thisBit, BitVec.toNat_add, BitVec.toNat_ofNat, BitVec.toNat_ofNat]
    omega
  refine ⟨⟨by simp [noMarker], by omega, by omega⟩, ?_⟩
  rw [bitValue, length, decide_eq_decide]
  omega

/-- Settles O54: the POLL of the line accepts the pulse's duration and writes its bit to the next slot. -/
theorem aBitLineWritesItsBit : Obligations.ABitLineWritesItsBit := by
  intro s t b tp ht hb
  obtain ⟨resp, run⟩ := execAll_next (lineRequests (.bit t b)) s
  obtain ⟨accepts, value⟩ := pulseRegs_bit (t := t) hb tp
  obtain ⟨-, start, thisBit, buf, -⟩ := accept_poll_writes _ accepts
  refine ⟨_, run, start, thisBit, ?_⟩
  rw [← pulseRegs_nextSlot ht (100 + 100 * b), ← value, lineRequests, regsAfterAll_pulseRequests, buf,
    frameAfterBit_bits _ accepts.2.2, if_pos rfl]

end Sys2Proof.Proofs

/-! The family 40_pulse_sampler.md: the two edge requests in full (R67, R68). -/

namespace Sys2Proof.Proofs

open Sys2Proof.Machine Sys2Proof.Laws

/-- The words that match a row of format T (R56) are those that decode to its request with the payload as operand. -/
theorem matchesFormatT_iff_decode {w : ReqWord} {op : BitVec 4} {i : Instr}
    (row : encode i = formatT op (w.extractLsb' 0 32)) : w &&& 0xF00000000#36 = formatZ op ↔ decode w = .ok i := by
  constructor
  · intro fixedBits
    have spells : w = encode i := (eq_formatT_of_mask fixedBits).trans row.symm
    exact spells ▸ decode_encode i
  · intro decodes
    have spells : w = formatT op (w.extractLsb' 0 32) := (eq_encode_of_decode_ok decodes).trans row
    rw [spells]
    exact TableBits.high_bits op _

/-- Settles O12: the response and the frame are those of `exec_eq`; the gap test is `gapDetect_iff`'s, on numbers. -/
theorem edgeOffRecordsThePulseStart : Obligations.EdgeOffRecordsThePulseStart := by
  refine ⟨fun w => matchesFormatT_iff_decode (op := 0x2#4) rfl, fun now s => ?_⟩
  rw [exec_eq]
  simp only [← gapDetect_iff]
  rfl

/-- The measured duration on numbers: modulo 2^32, so the padding may wrap it past zero (R66, R68). -/
theorem duration_eq_ofNat (now start : Ms) :
    duration now start = BitVec.ofNat 32 (now.toNat + 2 ^ 32 - start.toNat + 5) := by
  apply BitVec.eq_of_toNat_eq
  rw [duration, BitVec.toNat_add, ms_sub_toNat, BitVec.toNat_ofNat, BitVec.toNat_ofNat, ← Nat.add_mod]

/-- Settles O13: the response and the frame are those of `exec_eq`; the duration is `duration_eq_ofNat`'s. -/
theorem edgeOnMeasuresThePulse : Obligations.EdgeOnMeasuresThePulse := by
  refine ⟨fun w => matchesFormatT_iff_decode (op := 0x3#4) rfl, fun now s => ?_⟩
  rw [exec_eq, ← duration_eq_ofNat]
  rfl

end Sys2Proof.Proofs

/-! The family 41_frame_assembler.md: what POLL does in each of its cases (R70 to R84, R86), what every step keeps of the
counter, `SYNC` and `LAST_PULSE_START` (R75, R79, R85), and a minute of pulses collected and decoded (R88). -/

namespace Sys2Proof.Proofs

open Sys2Proof.Machine Sys2Proof.Safety Sys2Proof.Laws

/-! ### A step and the registers of the collection -/

/-- The registers that collect a frame are equal: the counter, the buffer, `SYNC` and the start of the last accepted pulse. -/
abbrev SameCollection (r r' : Regs) : Prop :=
  r'.ctr = r.ctr ∧ r'.buf = r.buf ∧ r'.sync = r.sync ∧ r'.lastPulseStart = r.lastPulseStart

theorem pollRegs_sameCollection {r : Regs} (h : ¬acceptsBit r) : SameCollection r (pollRegs r) := by
  rcases not_accept_cases r h with ⟨-, marker⟩ | ⟨-, skipped⟩
  · rw [marker]
    exact ⟨rfl, rfl, rfl, rfl⟩
  · rw [skipped]
    exact ⟨rfl, rfl, rfl, rfl⟩

/-- A request is a POLL that accepts a bit, or it leaves the collection alone. -/
theorem regsAfter_collection_cases (i : Instr) (r : Regs) :
    (acceptsBit r ∧ regsAfter i r = pollRegs r) ∨ SameCollection r (regsAfter i r) := by
  cases i with
  | poll =>
    by_cases accepts : acceptsBit r
    · exact .inl ⟨accepts, rfl⟩
    · exact .inr (pollRegs_sameCollection accepts)
  | _ => exact .inr ⟨rfl, rfl, rfl, rfl⟩

/-- A step is a RESET, a POLL that accepts a bit, or it leaves the collection alone. -/
theorem step_collection_cases {s s' : State} (hs : step s = .next s') :
    s'.regs = Regs.reset ∨ (acceptsBit s.regs ∧ s'.regs = pollRegs s.regs) ∨ SameCollection s.regs s'.regs := by
  obtain ⟨t, ht, c⟩ := step_cases s
  rw [hs] at ht
  cases ht
  rcases c with ⟨w, word, -⟩ | ⟨reset, -⟩
  · right
    rw [word, regsAfterWord]
    cases decode w with
    | ok i => exact regsAfter_collection_cases i s.regs
    | error e => exact .inr ⟨rfl, rfl, rfl, rfl⟩
  · exact .inl reset

/-- Settles O50: an accepting POLL records the start of its pulse, and no other request touches the register. -/
theorem lastPulseStartMovesOnlyWithAnAcceptedBit : Obligations.LastPulseStartMovesOnlyWithAnAcceptedBit := by
  intro s s' hs
  rcases step_collection_cases hs with reset | ⟨accepts, poll⟩ | ⟨-, -, -, kept⟩
  · exact .inr (.inl reset)
  · obtain ⟨-, start, -⟩ := accept_poll_writes s.regs accepts
    exact .inr (.inr ⟨accepts, poll ▸ start⟩)
  · exact .inl kept

/-! ### The slot of the accepted bit -/

theorem nextSlot_lt (r : Regs) : nextSlot r < 64 := nextSlot_eq r ▸ slot_lt (bitSlot r)

/-- The marker sends the bit to slot 0 (R74). -/
theorem nextSlot_of_marker {r : Regs} (som : r.som ≠ 0#32) : nextSlot r = 0 := if_pos som

theorem nextSlot_of_no_marker {r : Regs} (som : r.som = 0#32) : nextSlot r = r.ctr.toNat := if_neg (not_not_intro som)

/-- A bit that goes past slot 0 does not resynchronise. -/
theorem no_marker_of_nextSlot_pos {r : Regs} (h : 0 < nextSlot r) : r.som = 0#32 := by
  by_contra som
  rw [nextSlot_of_marker som] at h
  exact Nat.lt_irrefl 0 h

/-- The counter after an accepted bit, on numbers (R80). -/
theorem accept_ctr_toNat (r : Regs) (accepts : acceptsBit r) :
    (pollRegs r).ctr.toNat = if 61 < nextSlot r then 0 else nextSlot r + 1 := by
  obtain ⟨-, -, -, -, ctr, -⟩ := accept_poll_writes r accepts
  rw [ctr]
  split
  · rfl
  · rw [BitVec.toNat_ofNat]
    omega

/-- The slots of the buffer after a POLL that accepts a bit (R78). -/
theorem accept_buf_bits (r : Regs) (accepts : acceptsBit r) (j : Nat) :
    (pollRegs r).buf.getLsbD j =
      if j = nextSlot r then bitValue r else if r.som ≠ 0#32 then false else r.buf.getLsbD j := by
  obtain ⟨-, -, -, buf, -⟩ := accept_poll_writes r accepts
  rw [buf, frameAfterBit_bits r accepts.2.2]

/-! ### Invariants of the collection -/

/-- From a counter of at most 62 the bit goes to a slot of at most 62, and the counter past 61 returns to 0 (R85). -/
theorem accept_keeps_counterInRange {r : Regs} (accepts : acceptsBit r) (h : counterInRange r) :
    counterInRange (pollRegs r) := by
  obtain ⟨ctr, slot63⟩ := h
  have slot : nextSlot r ≤ 62 := by
    unfold nextSlot
    split <;> omega
  constructor
  · rw [accept_ctr_toNat r accepts]
    split <;> omega
  · rw [accept_buf_bits r accepts, if_neg (by omega), slot63, ite_self]

/-- Settles O44: it holds at reset, an accepted bit keeps it, and nothing else writes the counter or the buffer. -/
theorem everyStepKeepsTheCounterInRange : Obligations.EveryStepKeepsTheCounterInRange := by
  intro s s' h hs
  rcases step_collection_cases hs with reset | ⟨accepts, poll⟩ | ⟨ctr, buf, -⟩
  · rw [reset]
    decide
  · rw [poll]
    exact accept_keeps_counterInRange accepts h
  · rwa [counterInRange, ctr, buf]

/-- Slot 20 and `SYNC` take the bit of slot 20 together, and the bit of a later slot touches neither (R79). -/
theorem accept_keeps_syncMatchesSlot {r : Regs} (accepts : acceptsBit r) (h : syncMatchesSlot r) :
    syncMatchesSlot (pollRegs r) := by
  intro past
  obtain ⟨-, -, -, -, -, sync, -⟩ := accept_poll_writes r accepts
  have slot : 20 ≤ nextSlot r := by
    rw [accept_ctr_toNat r accepts] at past
    split at past <;> omega
  have som := no_marker_of_nextSlot_pos (r := r) (by omega)
  rw [accept_buf_bits r accepts, sync]
  by_cases captured : nextSlot r = 20
  · rw [if_pos captured, if_pos captured.symm]
  · have ctr : 20 < r.ctr.toNat := by
      rw [← nextSlot_of_no_marker som]
      omega
    rw [if_neg captured, if_neg (Ne.symm captured), if_neg (not_not_intro som), h ctr]

/-- Settles O45: it holds at reset, an accepted bit keeps it, and nothing else writes the three registers. -/
theorem everyStepKeepsSyncEqualToSlot20 : Obligations.EveryStepKeepsSyncEqualToSlot20 := by
  intro s s' h hs
  rcases step_collection_cases hs with reset | ⟨accepts, poll⟩ | ⟨ctr, buf, sync, -⟩
  · rw [reset]
    decide
  · rw [poll]
    exact accept_keeps_syncMatchesSlot accepts h
  · rwa [syncMatchesSlot, ctr, buf, sync]

/-! ### POLL in full -/

/-- Step 1 (R71). -/
theorem pollRegs_of_marker {r : Regs} (marker : r.som ≠ 0#32 ∧ r.tp = true) : pollRegs r = { r with tp := false } :=
  if_pos ((minuteAvailable_iff r).2 marker)

theorem exec_poll_of_marker {s : State} (marker : s.regs.som ≠ 0#32 ∧ s.regs.tp = true) :
    exec .poll s = .next { s with regs := { s.regs with tp := false }, response := some ⟨true, s.regs.som⟩ } := by
  rw [exec_eq, regsAfter, pollRegs_of_marker marker, responseTo, pollData_eq, if_pos marker]

/-- Past step 1 a POLL answers `{1, 0}`. -/
theorem exec_poll_of_no_marker {s : State} (marker : ¬(s.regs.som ≠ 0#32 ∧ s.regs.tp = true)) :
    exec .poll s = .next { s with regs := pollRegs s.regs, response := some ⟨true, 0#32⟩ } := by
  rw [exec_eq, regsAfter, responseTo, pollData_eq, if_neg marker]

/-- Settles O17: step 1 fires, and the marker is the response data. -/
theorem pollReturnsTheMarkerAndClearsOnlyTp : Obligations.PollReturnsTheMarkerAndClearsOnlyTp :=
  fun _ som tp => exec_poll_of_marker ⟨som, tp⟩

/-- Settles O18: with no marker to return and no duration in range the mirror of step 2 is all that runs. -/
theorem pollSkipsADurationOutOfRange : Obligations.PollSkipsADurationOutOfRange := by
  intro s marker outside
  rw [exec_poll_of_no_marker marker, pollRegs_of_skips marker (by omega)]
  rfl

/-- A bit that does not fill slot 58 with `SYNC` = 1 ends at step 3h. -/
theorem pollRegs_of_collects {r : Regs} (accepts : acceptsBit r) (collects : ¬(nextSlot r = 58 ∧ r.sync = true)) :
    pollRegs r = collectBit (mirrorInd r) := by
  rcases accept_cases r accepts with ⟨-, bit⟩ | ⟨decodes, -⟩ | ⟨decodes, -⟩
  · exact bit
  · exact absurd decodes collects
  · exact absurd decodes collects

/-- Settles O19: steps 2 to 3h are `accept_eq`'s record. -/
theorem pollAcceptsABit : Obligations.PollAcceptsABit := by
  intro s accepts collects
  rw [exec_poll_of_no_marker accepts.1, pollRegs_of_collects accepts collects, accept_eq _ accepts]

/-! ### POLL that decodes -/

/-- The bit of slot 58 reaches step 3i with the counter at 59. -/
theorem accept_eq_of_slot58 {r : Regs} (accepts : acceptsBit r) (slot : nextSlot r = 58) :
    collectBit (mirrorInd r) =
      { r with
        indOut := r.ind, lastPulseStart := r.pulseStart, thisBit := 0#32, buf := frameAfterBit r, ctr := 59#6 } := by
  rw [accept_eq r accepts, slot]
  rfl

/-- `FLAGS` is the run of slots 15..19. -/
theorem packFlags_eq_slice (buf : Frame) : packFlags buf = slice buf 15 5 := by
  apply BitVec.eq_of_getLsbD_eq
  intro k hk
  rw [getLsbD_packFlags buf k hk, getLsbD_slice, decide_eq_true hk, Bool.true_and]

/-- Settles O20: step 3i decodes and stops at the mask. -/
theorem pollDecodesAndReportsAParityError : Obligations.PollDecodesAndReportsAParityError := by
  intro s accepts slot sync parityError
  have decoded : pollRegs s.regs = decodeFrame (collectBit (mirrorInd s.regs)) := by
    rcases accept_cases s.regs accepts with ⟨collects, -⟩ | ⟨-, -, decoded⟩ | ⟨-, clean, -⟩
    · exact absurd ⟨slot, sync⟩ collects
    · exact decoded
    · exact absurd clean parityError
  rw [exec_poll_of_no_marker accepts.1, decoded, accept_eq_of_slot58 accepts slot, decodeFrame, packFlags_eq_slice]
  rfl

/-- A two-digit field of the frame as an argument of `MakeTime`, on numbers (R95, R102). -/
theorem bcdArg_slice (buf : Frame) (off : Nat) {width : Nat} (h : width ≤ 8) :
    bcdArg ((slice buf off width).zeroExtend 8) =
      BitVec.ofNat 8 (buf.toNat / 2 ^ off % 2 ^ width / 16 * 10 + buf.toNat / 2 ^ off % 2 ^ width % 16) := by
  have value : ((slice buf off width).zeroExtend 8).toNat = buf.toNat / 2 ^ off % 2 ^ width := by
    rw [slice, BitVec.zeroExtend, BitVec.toNat_setWidth_of_le h, BitVec.extractLsb'_toNat, Nat.shiftRight_eq_div_pow]
  rw [bcdArg, bcdToDec, value]

/-- The year argument is the field's value and the offset, modulo 2^8 (R101). -/
theorem yearArg_eq (v : BitVec 8) : yearArg v = bcdArg (v.zeroExtend 8) + 30#8 := by
  rw [BitVec.zeroExtend, BitVec.setWidth_eq]
  exact BitVec.ofNat_add (bcdToDec v) 30

/-- UTC after a decode is behind the local time by the offset that slot 17 selects (R104). -/
theorem sub_utcOffset_packFlags (loc : Epoch) (buf : Frame) :
    loc - utcOffset (packFlags buf) = if buf.getLsbD 17 then loc - 7200#32 else loc - 3600#32 := by
  rw [utcOffset, flagZ1_packFlags]
  exact apply_ite (loc - ·) _ _ _

/-- Settles O21: step 3i decodes, builds from the decoded fields and publishes. -/
theorem pollDecodesBuildsAndPublishes : Obligations.PollDecodesBuildsAndPublishes := by
  intro s accepts slot sync clean f dec loc
  have published : pollRegs s.regs =
      publish (buildWith Config.makeTime (decodeFrame (collectBit (mirrorInd s.regs)))) := by
    rcases accept_cases s.regs accepts with ⟨collects, -⟩ | ⟨-, parityError, -⟩ | ⟨-, -, published⟩
    · exact absurd ⟨slot, sync⟩ collects
    · exact absurd clean parityError
    · exact published
  have buf : (collectBit (mirrorInd s.regs)).buf = f := by rw [accept_eq_of_slot58 accepts slot]
  have built : localTime Config.makeTime (decodeFrame (collectBit (mirrorInd s.regs))) = loc := by
    simp only [localTime, decodeFrame_minBcd, decodeFrame_hourBcd, decodeFrame_dayBcd, decodeFrame_monthBcd,
      decodeFrame_yearBcd, buf, yearArg_eq]
    rw [bcdArg_slice f 21 (by decide), bcdArg_slice f 29 (by decide), bcdArg_slice f 36 (by decide),
      bcdArg_slice f 45 (by decide), bcdArg_slice f 50 (by decide)]
  rw [exec_poll_of_no_marker accepts.1, published, buildWith, built, decodeFrame_flags, buf, sub_utcOffset_packFlags,
    decodeFrame, accept_eq_of_slot58 accepts slot, packFlags_eq_slice, clean]
  rfl

/-! ### What an accepted bit does to the results -/

theorem accept_sameFields (r : Regs) (accepts : acceptsBit r) : sameFields r (collectBit (mirrorInd r)) := by
  obtain ⟨-, -, -, -, fields⟩ := accept_keeps r accepts
  exact fields

/-- Only the bit of slot 1 touches the results before step 3i (R76). -/
theorem accept_sameResults (r : Regs) (accepts : acceptsBit r) (slot : nextSlot r ≠ 1) :
    sameResults r (collectBit (mirrorInd r)) := by
  obtain ⟨-, -, -, -, -, -, results⟩ := accept_writes r accepts
  simpa only [if_neg slot] using results

/-- The results a consumer reads in the grace window are 0 (R130). -/
abbrev ResultsClear (r : Regs) : Prop :=
  r.perr = 0#3 ∧ r.localTs = 0#32 ∧ r.regionalTs = 0#32 ∧ r.utcTs = 0#32

theorem accept_clears (r : Regs) (accepts : acceptsBit r) (slot : nextSlot r = 1) :
    ResultsClear (collectBit (mirrorInd r)) := by
  obtain ⟨-, -, -, -, -, -, results⟩ := accept_writes r accepts
  simpa only [if_pos slot] using results

/-- A bit that goes to any slot but 58 ends at step 3h. -/
theorem pollRegs_of_slot_ne_58 {r : Regs} (accepts : acceptsBit r) (slot : nextSlot r ≠ 58) :
    pollRegs r = collectBit (mirrorInd r) :=
  pollRegs_of_collects accepts fun decodes => slot decodes.1

/-! ### POLL step by step -/

/-- A pulse with the marker set leaves its bit in slot 0 of an otherwise zero buffer, and the counter at 1 (R74). -/
theorem pollRegs_restarts {r : Regs} (accepts : acceptsBit r) (som : r.som ≠ 0#32) :
    (pollRegs r).ctr = 1#6 ∧ (pollRegs r).buf = if bitValue r then 1#64 else 0#64 := by
  obtain ⟨-, -, -, buf, ctr, -⟩ := accept_poll_writes r accepts
  rw [buf, ctr, frameAfterBit, nextSlot_of_marker som, if_pos som, BitVec.zero_and, BitVec.zero_or]
  exact ⟨rfl, rfl⟩

/-- Settles O22: the restart writes the frame alone, and slot 0 is neither the slot that clears nor the one that decodes. -/
theorem resynchronisationRestartsTheFrame : Obligations.ResynchronisationRestartsTheFrame := by
  intro s accepts som
  have slot := nextSlot_of_marker som
  have tp : s.regs.tp = false := by simpa [som] using accepts.1
  have collects := pollRegs_of_slot_ne_58 accepts (by omega)
  obtain ⟨ctr', buf'⟩ := pollRegs_restarts accepts som
  obtain ⟨-, -, thisBit', -, -, sync', -, som', -⟩ := accept_poll_writes s.regs accepts
  obtain ⟨tp', -⟩ := accept_keeps s.regs accepts
  refine ⟨_, exec_poll_of_no_marker accepts.1, ctr', tp, ?_, buf', ?_, ?_, ?_, som', thisBit'⟩
  · rw [collects, tp', tp]
  · rw [sync', slot]
    rfl
  · rw [collects]
    exact accept_sameFields s.regs accepts
  · rw [collects]
    exact accept_sameResults s.regs accepts (by omega)

/-- Settles O23: with the marker clear and the counter at 1 the bit goes to slot 1, with the marker set to slot 0. -/
theorem slotOneClearsTheStaleResults : Obligations.SlotOneClearsTheStaleResults := by
  intro s accepts
  refine ⟨_, exec_poll_of_no_marker accepts.1, fun som ctr => ?_, fun som => ?_⟩
  · have slot : nextSlot s.regs = 1 := by rw [nextSlot_of_no_marker som, ctr]; rfl
    obtain ⟨perr, localTs, regionalTs, utcTs⟩ := accept_clears s.regs accepts slot
    rw [pollRegs_of_slot_ne_58 accepts (by omega)]
    exact ⟨perr, localTs, regionalTs, utcTs, accept_sameFields s.regs accepts⟩
  · have slot := nextSlot_of_marker som
    rw [pollRegs_of_slot_ne_58 accepts (by omega)]
    exact accept_sameResults s.regs accepts (by omega)

/-- The accepted bit by the classifier's formula (R77). -/
theorem bitValue_eq_quotient (r : Regs) (accepts : acceptsBit r) :
    bitValue r = decide (r.thisBit.toNat / 100 - 1 = 1) := by
  obtain ⟨-, low, high⟩ := accepts
  rw [bitValue, decide_eq_decide]
  omega

/-- Settles O24: the slots are `accept_buf_bits`'s, the bit by the classifier's formula. -/
theorem theBitIsWrittenToItsSlotAlone : Obligations.TheBitIsWrittenToItsSlotAlone := by
  intro s accepts
  refine ⟨_, exec_poll_of_no_marker accepts.1, fun j _ => ?_⟩
  rw [← bitValue_eq_quotient s.regs accepts]
  exact accept_buf_bits s.regs accepts j

/-- Settles O25: an accepted bit writes `SYNC` at slot 20 alone, and a POLL that accepts none leaves the collection alone. -/
theorem syncIsCapturedAtSlot20 : Obligations.SyncIsCapturedAtSlot20 := by
  intro s
  refine ⟨_, exec_eq .poll s, fun accepts slot => ?_, fun notCaptured => ?_⟩
  · obtain ⟨-, -, -, -, -, sync, -⟩ := accept_poll_writes s.regs accepts
    exact sync.trans (if_pos slot)
  · by_cases accepts : acceptsBit s.regs
    · obtain ⟨-, -, -, -, -, sync, -⟩ := accept_poll_writes s.regs accepts
      exact sync.trans (if_neg fun slot => notCaptured ⟨accepts, slot⟩)
    · obtain ⟨-, -, sync, -⟩ := pollRegs_sameCollection accepts
      exact sync

/-- Settles O26: the counter of an accepted bit is `accept_ctr_toNat`'s, and every POLL responds with `ok` set. -/
theorem counterAdvancesOnlyOnAnAcceptedBit : Obligations.CounterAdvancesOnlyOnAnAcceptedBit := by
  intro s
  refine ⟨_, _, exec_eq .poll s, rfl, accept_ctr_toNat s.regs, fun notAccepts => ?_⟩
  obtain ⟨ctr, -⟩ := pollRegs_sameCollection notAccepts
  exact ctr

/-- Settles O28: with the marker clear the bit goes to slot 62 or 63, past every slot that clears, captures or decodes. -/
theorem overrunResetsTheCounterSilently : Obligations.OverrunResetsTheCounterSilently := by
  intro s overrun som
  have slot := nextSlot_of_no_marker som
  refine ⟨_, exec_poll_of_no_marker (fun marker => marker.1 som), rfl, fun accepts => ?_, fun notAccepts => ?_⟩
  · have collects := pollRegs_of_slot_ne_58 accepts (by omega)
    obtain ⟨-, -, -, -, ctr, -⟩ := accept_poll_writes s.regs accepts
    obtain ⟨tp, -⟩ := accept_keeps s.regs accepts
    have bits := accept_buf_bits s.regs accepts
    rw [slot] at bits
    refine ⟨ctr.trans (if_pos (by omega)), (bits _).trans (if_pos rfl), fun j other => ?_, ?_, ?_, ?_⟩
    · rw [bits, if_neg other, if_neg (not_not_intro som)]
    · rw [collects]
      exact accept_sameFields s.regs accepts
    · rw [collects]
      exact accept_sameResults s.regs accepts (by omega)
    · rw [collects, tp]
  · obtain ⟨ctr, buf, -⟩ := pollRegs_sameCollection notAccepts
    exact ⟨ctr, buf⟩

/-- Settles O30: step 1 clears `TP` alone, so the next POLL accepts the waiting bit with the marker still set. -/
theorem theMarkerPollLeavesTheBitWaiting : Obligations.TheMarkerPollLeavesTheBitWaiting := by
  intro s som tp low high
  have accepts : acceptsBit { s.regs with tp := false } := ⟨by simp, low, high⟩
  obtain ⟨ctr, buf⟩ := pollRegs_restarts accepts som
  obtain ⟨-, start, thisBit, -⟩ := accept_poll_writes _ accepts
  exact ⟨_, _, exec_poll_of_marker ⟨som, tp⟩, rfl, rfl, exec_poll_of_no_marker accepts.1, thisBit, ctr, buf, start⟩

/-! ### A minute of pulses -/

/-- The buffer, the counter, `SYNC` and `LAST_PULSE_START` with the bits of seconds 0 to `k` collected (R88). -/
structure Collected (t : Nat) (frame : Frame) (k : Nat) (q : Regs) : Prop where
  ctr : q.ctr.toNat = k + 1
  bits : ∀ j, q.buf.getLsbD j = (decide (j ≤ k) && frame.getLsbD j)
  sync : 20 ≤ k → q.sync = frame.getLsbD 20
  start : q.lastPulseStart = BitVec.ofNat 32 (t + 1000 * k)

/-- The results after second `k` when nothing was decoded since registers `r`: the fields are those of `r`, and second 1 has
cleared the rest (R76). -/
structure Undecoded (r : Regs) (k : Nat) (q : Regs) : Prop where
  tp : q.tp = false
  fields : sameFields r q
  cleared : 1 ≤ k → ResultsClear q

theorem sameFields_trans {r q p : Regs} (h : sameFields r q) (h' : sameFields q p) : sameFields r p := by
  obtain ⟨min, hour, day, month, year, flags, civil⟩ := h
  obtain ⟨min', hour', day', month', year', flags', civil'⟩ := h'
  exact ⟨min'.trans min, hour'.trans hour, day'.trans day, month'.trans month, year'.trans year, flags'.trans flags,
    civil'.trans civil⟩

theorem resultsClear_of_sameResults {q p : Regs} (h : ResultsClear q) (same : sameResults q p) : ResultsClear p := by
  obtain ⟨perr, localTs, regionalTs, utcTs⟩ := h
  obtain ⟨perr', localTs', regionalTs', utcTs'⟩ := same
  exact ⟨perr'.trans perr, localTs'.trans localTs, regionalTs'.trans regionalTs, utcTs'.trans utcTs⟩

/-- The registers in which the POLL of second `k` runs. -/
def secondRegs (t : Nat) (frame : Frame) (k : Nat) (q : Regs) : Regs :=
  pulseRegs (t + 1000 * k) (100 + 100 * (frame.getLsbD k).toNat) q

/-- The registers after the first `n` seconds. -/
def minuteRegs (t : Nat) (frame : Frame) (n : Nat) (r : Regs) : Regs := regsAfterAll (frameRequests t frame n) r

theorem minuteRegs_zero (t : Nat) (frame : Frame) (r : Regs) : minuteRegs t frame 0 r = r := rfl

theorem minuteRegs_succ (t : Nat) (frame : Frame) (k : Nat) (r : Regs) :
    minuteRegs t frame (k + 1) r = pollRegs (secondRegs t frame k (minuteRegs t frame k r)) := by
  rw [minuteRegs, frameRequests_succ, regsAfterAll_append, regsAfterAll_pulseRequests]
  rfl

/-- The POLL of a second accepts the bit of the frame. -/
theorem secondRegs_accepts {t : Nat} {frame : Frame} {k : Nat} {q : Regs} (tp : q.tp = false) :
    acceptsBit (secondRegs t frame k q) ∧ bitValue (secondRegs t frame k q) = frame.getLsbD k := by
  obtain ⟨accepts, value⟩ := pulseRegs_bit (t := t + 1000 * k) (Bool.toNat_lt (frame.getLsbD k)) tp
  refine ⟨accepts, value.trans ?_⟩
  cases frame.getLsbD k <;> rfl

/-- The pulse of a second leaves alone what POLL collects and every result. -/
theorem secondRegs_keeps (t : Nat) (frame : Frame) (k : Nat) (q : Regs) :
    (secondRegs t frame k q).buf = q.buf ∧ (secondRegs t frame k q).ctr = q.ctr ∧
      (secondRegs t frame k q).sync = q.sync ∧ (secondRegs t frame k q).tp = q.tp ∧
      sameFields q (secondRegs t frame k q) ∧ sameResults q (secondRegs t frame k q) := by
  simp [secondRegs, pulseRegs, sameFields, sameResults]

/-- The marker is set in a second whose pulse starts on a gap, unless its clock reading is 0. -/
theorem secondRegs_som_ne_zero_iff (t : Nat) (frame : Frame) (k : Nat) (q : Regs) :
    (secondRegs t frame k q).som ≠ 0#32 ↔
      gapDetect (BitVec.ofNat 32 (t + 1000 * k)) q.lastPulseStart = true ∧ BitVec.ofNat 32 (t + 1000 * k) ≠ 0#32 :=
  sampleOff_som_ne_zero_iff (BitVec.ofNat 32 (t + 1000 * k)) q

/-- What an accepted bit of the frame collects, when its slot is `k` and the buffer it goes to holds the slots before `k`. -/
theorem collected_of_accepts {t : Nat} {frame : Frame} {k : Nat} {p : Regs} (hk : k ≤ 58) (accepts : acceptsBit p)
    (value : bitValue p = frame.getLsbD k) (slot : nextSlot p = k) (start : p.pulseStart = BitVec.ofNat 32 (t + 1000 * k))
    (bits : ∀ j, (if p.som ≠ 0#32 then false else p.buf.getLsbD j) = (decide (j < k) && frame.getLsbD j))
    (sync : 20 < k → p.sync = frame.getLsbD 20) : Collected t frame k (pollRegs p) := by
  obtain ⟨-, start', -, -, -, sync', -⟩ := accept_poll_writes p accepts
  refine ⟨?_, fun j => ?_, fun h => ?_, start'.trans start⟩
  · rw [accept_ctr_toNat p accepts, slot, if_neg (by omega)]
  · rw [accept_buf_bits p accepts, slot, value]
    by_cases own : j = k
    · simp [own]
    · rw [if_neg own, bits j, decide_eq_decide.2 (by omega : j < k ↔ j ≤ k)]
  · rw [sync', slot, value]
    by_cases own : k = 20
    · rw [if_pos own, own]
    · rw [if_neg own]
      exact sync (by omega)

/-- The results after an accepted bit that does not decode. -/
theorem undecoded_of_accepts {k : Nat} {r p : Regs} (accepts : acceptsBit p) (slot : nextSlot p = k) (tp : p.tp = false)
    (fields : sameFields r p) (cleared : 2 ≤ k → ResultsClear p) (collects : ¬(k = 58 ∧ p.sync = true)) :
    Undecoded r k (pollRegs p) := by
  obtain ⟨tp', -⟩ := accept_keeps p accepts
  rw [pollRegs_of_collects accepts (slot.symm ▸ collects)]
  refine ⟨tp'.trans tp, sameFields_trans fields (accept_sameFields p accepts), fun h => ?_⟩
  by_cases own : k = 1
  · exact accept_clears p accepts (slot.trans own)
  · exact resultsClear_of_sameResults (cleared (by omega)) (accept_sameResults p accepts (by omega))

/-- The first pulse comes after a gap, so its bit goes to slot 0 of a zeroed buffer (R74). -/
theorem first_second {t : Nat} {frame : Frame} {r : Regs} (tp : r.tp = false) (nonzero : BitVec.ofNat 32 t ≠ 0#32)
    (gap : 1700 < (BitVec.ofNat 32 t - r.lastPulseStart).toNat) :
    Collected t frame 0 (minuteRegs t frame 1 r) ∧ Undecoded r 0 (minuteRegs t frame 1 r) := by
  obtain ⟨accepts, value⟩ := secondRegs_accepts (t := t) (frame := frame) (k := 0) tp
  obtain ⟨-, -, -, tp', fields, -⟩ := secondRegs_keeps t frame 0 r
  have som : (secondRegs t frame 0 r).som ≠ 0#32 :=
    (secondRegs_som_ne_zero_iff t frame 0 r).2 ⟨decide_eq_true gap, nonzero⟩
  have slot := nextSlot_of_marker som
  rw [minuteRegs_succ, minuteRegs_zero]
  constructor
  · refine collected_of_accepts (by decide) accepts value slot rfl (fun j => ?_) (by omega)
    rw [if_pos som, decide_eq_false (Nat.not_lt_zero j), Bool.false_and]
  · exact undecoded_of_accepts accepts slot (tp'.trans tp) fields (by omega) (by omega)

/-- The pulse of the next second comes with no gap, so its bit goes to the slot the counter names. -/
theorem next_second_slot {t : Nat} {frame : Frame} {k : Nat} {q : Regs} (collected : Collected t frame k q) :
    (secondRegs t frame (k + 1) q).som = 0#32 ∧ nextSlot (secondRegs t frame (k + 1) q) = k + 1 := by
  obtain ⟨-, ctr, -⟩ := secondRegs_keeps t frame (k + 1) q
  have later : BitVec.ofNat 32 (t + 1000 * (k + 1)) = BitVec.ofNat 32 (t + 1000 * k) + 1000#32 := by
    rw [Nat.mul_succ, ← Nat.add_assoc, BitVec.ofNat_add]
  have noGap : ¬gapDetect (BitVec.ofNat 32 (t + 1000 * (k + 1))) q.lastPulseStart = true := by
    rw [collected.start, later, gapDetect, add_sub_cancel_left]
    decide
  have som : (secondRegs t frame (k + 1) q).som = 0#32 := by
    by_contra marked
    exact noGap ((secondRegs_som_ne_zero_iff t frame (k + 1) q).1 marked).1
  exact ⟨som, by rw [nextSlot_of_no_marker som, ctr, collected.ctr]⟩

theorem next_second_collected {t : Nat} {frame : Frame} {k : Nat} {q : Regs} (hk : k < 58) (tp : q.tp = false)
    (collected : Collected t frame k q) :
    Collected t frame (k + 1) (pollRegs (secondRegs t frame (k + 1) q)) := by
  obtain ⟨accepts, value⟩ := secondRegs_accepts (t := t) (frame := frame) (k := k + 1) tp
  obtain ⟨buf, -, sync, -⟩ := secondRegs_keeps t frame (k + 1) q
  obtain ⟨som, slot⟩ := next_second_slot collected
  refine collected_of_accepts hk accepts value slot rfl (fun j => ?_) (fun h => sync.trans (collected.sync (by omega)))
  rw [if_neg (not_not_intro som), buf, collected.bits j, decide_eq_decide.2 Nat.lt_succ_iff]

theorem next_second_undecoded {t : Nat} {frame : Frame} {k : Nat} {r q : Regs} (collected : Collected t frame k q)
    (undecoded : Undecoded r k q) (collects : ¬(k + 1 = 58 ∧ q.sync = true)) :
    Undecoded r (k + 1) (pollRegs (secondRegs t frame (k + 1) q)) := by
  obtain ⟨accepts, -⟩ := secondRegs_accepts (t := t) (frame := frame) (k := k + 1) undecoded.tp
  obtain ⟨-, -, sync, tp, fields, results⟩ := secondRegs_keeps t frame (k + 1) q
  obtain ⟨-, slot⟩ := next_second_slot collected
  exact undecoded_of_accepts accepts slot (tp.trans undecoded.tp) (sameFields_trans undecoded.fields fields)
    (fun _ => resultsClear_of_sameResults (undecoded.cleared (by omega)) results) (by rwa [sync])

/-- Seconds 0 to 57 are collected and nothing is decoded, by induction on the seconds. -/
theorem seconds_before_58 {t : Nat} {frame : Frame} {r : Regs} (tp : r.tp = false) (nonzero : BitVec.ofNat 32 t ≠ 0#32)
    (gap : 1700 < (BitVec.ofNat 32 t - r.lastPulseStart).toNat) (k : Nat) (hk : k < 58) :
    Collected t frame k (minuteRegs t frame (k + 1) r) ∧ Undecoded r k (minuteRegs t frame (k + 1) r) := by
  induction k with
  | zero => exact first_second tp nonzero gap
  | succ k ih =>
    obtain ⟨collected, undecoded⟩ := ih (by omega)
    rw [minuteRegs_succ]
    exact ⟨next_second_collected (by omega) undecoded.tp collected,
      next_second_undecoded collected undecoded (by omega)⟩

/-! ### The decode of a minute -/

/-- The decoder outputs of registers `q` are those of a buffer, and `TP` says whether its mask is clean (R82, R94). -/
def DecodedFrom (buf : Frame) (q : Regs) : Prop :=
  q.minBcd = slice buf 21 7 ∧ q.hourBcd = slice buf 29 6 ∧ q.dayBcd = slice buf 36 6 ∧ q.monthBcd = slice buf 45 5 ∧
    q.yearBcd = slice buf 50 8 ∧ q.flags = slice buf 15 5 ∧ q.civil = slice buf 1 14 ∧ q.perr = parityMask buf ∧
    (q.tp = true ↔ parityMask buf = 0#3)

/-- The POLL that fills slot 58 with `SYNC` = 1 decodes the buffer it leaves, whatever the parity. -/
theorem accept_decodes {r : Regs} (accepts : acceptsBit r) (tp : r.tp = false) (slot : nextSlot r = 58)
    (sync : r.sync = true) : DecodedFrom (pollRegs r).buf (pollRegs r) := by
  obtain ⟨-, -, -, collected, -⟩ := accept_writes r accepts
  obtain ⟨-, -, -, buf, -⟩ := accept_poll_writes r accepts
  rw [buf]
  rcases accept_cases r accepts with ⟨collects, -⟩ | ⟨-, parityError, decoded⟩ | ⟨-, clean, published⟩
  · exact absurd ⟨slot, sync⟩ collects
  · rw [decoded, ← collected]
    rw [← collected] at parityError
    exact ⟨rfl, rfl, rfl, rfl, rfl, packFlags_eq_slice _, rfl, rfl, iff_of_false (by simp [tp]) parityError⟩
  · rw [published, ← collected]
    rw [← collected] at clean
    exact ⟨rfl, rfl, rfl, rfl, rfl, packFlags_eq_slice _, rfl, rfl, iff_of_true rfl clean⟩

/-- Slots below 59 that agree give equal runs of slots. -/
theorem slice_congr {buf frame : Frame} (agree : ∀ j, j < 59 → buf.getLsbD j = frame.getLsbD j) (off width : Nat)
    (h : off + width ≤ 59) : slice buf off width = slice frame off width := by
  apply BitVec.eq_of_getLsbD_eq
  intro k hk
  rw [getLsbD_slice, getLsbD_slice, agree (off + k) (by omega)]

/-- The decode reads only slots below 59 (R89 to R92). -/
theorem DecodedFrom.congr {buf frame : Frame} {q : Regs} (agree : ∀ j, j < 59 → buf.getLsbD j = frame.getLsbD j)
    (h : DecodedFrom buf q) : DecodedFrom frame q := by
  have run := slice_congr agree
  have mask : parityMask buf = parityMask frame := by
    simp only [parityMask, errMinute, errHour, errDate]
    rw [run 21 7 (by decide), run 29 6 (by decide), run 36 22 (by decide), agree 28 (by decide), agree 35 (by decide),
      agree 58 (by decide)]
  rwa [DecodedFrom, run 21 7 (by decide), run 29 6 (by decide), run 36 6 (by decide), run 45 5 (by decide),
    run 50 8 (by decide), run 15 5 (by decide), run 1 14 (by decide), mask] at h

/-- Second 58 completes the frame, and decodes it exactly when `SYNC`, which is slot 20, is 1. -/
theorem last_second {t : Nat} {frame : Frame} {r q : Regs} (collected : Collected t frame 57 q)
    (undecoded : Undecoded r 57 q) :
    Collected t frame 58 (pollRegs (secondRegs t frame 58 q)) ∧
      (frame.getLsbD 20 = true → DecodedFrom frame (pollRegs (secondRegs t frame 58 q))) ∧
      (frame.getLsbD 20 = false → Undecoded r 58 (pollRegs (secondRegs t frame 58 q))) := by
  have complete := next_second_collected (by decide) undecoded.tp collected
  obtain ⟨-, slot⟩ := next_second_slot collected
  obtain ⟨accepts, -⟩ := secondRegs_accepts (t := t) (frame := frame) (k := 58) undecoded.tp
  obtain ⟨-, -, sync', tp', -⟩ := secondRegs_keeps t frame 58 q
  have sync := collected.sync (by decide)
  refine ⟨complete, fun one => ?_, fun zero => next_second_undecoded collected undecoded fun decodes => ?_⟩
  · refine (accept_decodes accepts (tp'.trans undecoded.tp) slot (sync'.trans (sync.trans one))).congr fun j hj => ?_
    rw [complete.bits j, decide_eq_true (Nat.le_of_lt_succ hj), Bool.true_and]
  · exact absurd (sync.symm.trans decodes.2) (by rw [zero]; decide)

/-- Settles O51: seconds 0 to 57 by `seconds_before_58`, second 58 by `last_second`. -/
theorem aMinuteOfPulsesIsCollectedAndDecoded : Obligations.AMinuteOfPulsesIsCollectedAndDecoded := by
  intro s t frame tp nonzero gap
  obtain ⟨resp, run⟩ := execAll_next (frameRequests t frame 59) s
  obtain ⟨collected, undecoded⟩ := seconds_before_58 (frame := frame) tp nonzero gap 57 (by decide)
  obtain ⟨complete, decodes, remains⟩ := last_second collected undecoded
  rw [← minuteRegs_succ, minuteRegs] at complete decodes remains
  refine ⟨_, run, BitVec.eq_of_toNat_eq complete.ctr, fun j _ => ?_, complete.sync (by decide), decodes, fun zero => ?_⟩
  · rw [complete.bits j, decide_eq_decide.2 (by omega : j ≤ 58 ↔ j < 59)]
  · obtain ⟨tp', fields, cleared⟩ := remains zero
    obtain ⟨perr, localTs, regionalTs, utcTs⟩ := cleared (by decide)
    exact ⟨fields, perr, tp', localTs, regionalTs, utcTs⟩

end Sys2Proof.Proofs

/-! The family 42_frame_decoder.md: the fields and the parity mask of a decode slot by slot (R89 to R94), and the two BCD
requests (R97 to R99). -/

namespace Sys2Proof.Proofs

open Sys2Proof.Machine Sys2Proof.Laws

/-! ### The extracted fields -/

theorem getLsbD_slice_of_lt {k width : Nat} (h : k < width) (buf : Frame) (off : Nat) :
    (slice buf off width).getLsbD k = buf.getLsbD (off + k) := by
  rw [getLsbD_slice, decide_eq_true h, Bool.true_and]

/-- Settles O32: six of the fields are slices, and `FLAGS` holds its slots in frame order. -/
theorem decodedFieldsAreTheirSlots : Obligations.DecodedFieldsAreTheirSlots := by
  intro r
  have run (off width k : Nat) (h : k < width) := getLsbD_slice_of_lt h r.buf off
  exact ⟨run 21 7, run 29 6, run 36 6, run 45 5, run 50 8, getLsbD_packFlags r.buf, run 1 14, rfl⟩

/-! ### The parity channels -/

/-- Slots `off .. off+n-1` hold an odd number of ones. -/
def oddOnes (buf : Frame) (off n : Nat) : Bool := ((List.range n).countP fun k => buf.getLsbD (off + k)) % 2 == 1

theorem oddOnes_succ (buf : Frame) (off n : Nat) :
    oddOnes buf off (n + 1) = (oddOnes buf off n).xor (buf.getLsbD (off + n)) := by
  unfold oddOnes
  rw [List.range_succ, List.countP_append, List.countP_singleton, Bool.eq_iff_iff]
  cases buf.getLsbD (off + n)
  · simp
  · simp only [if_true, Bool.xor_true, Bool.not_eq_true', beq_iff_eq, beq_eq_false_iff_ne]
    omega

theorem xorReduce_slice (buf : Frame) (off n : Nat) : xorReduce (slice buf off n) = oddOnes buf off n := by
  have counts : popcount (slice buf off n) = (List.range n).countP fun k => buf.getLsbD (off + k) :=
    List.countP_congr fun k hk => by rw [getLsbD_slice_of_lt (List.mem_range.1 hk)]
  rw [xorReduce, counts, oddOnes]

/-- A guarded field of `n` slots against the parity slot that follows it (R92). -/
theorem xorReduce_slice_xor_parity (buf : Frame) (off n : Nat) :
    (xorReduce (slice buf off n)).xor (buf.getLsbD (off + n)) = oddOnes buf off (n + 1) := by
  rw [xorReduce_slice, oddOnes_succ]

theorem errMinute_eq_oddOnes (buf : Frame) : errMinute buf = oddOnes buf 21 8 := xorReduce_slice_xor_parity buf 21 7

theorem errHour_eq_oddOnes (buf : Frame) : errHour buf = oddOnes buf 29 7 := xorReduce_slice_xor_parity buf 29 6

theorem errDate_eq_oddOnes (buf : Frame) : errDate buf = oddOnes buf 36 23 := xorReduce_slice_xor_parity buf 36 22

/-- Settles O33: each bit of the mask is its channel, and each channel an odd count. -/
theorem parityChannelsReportOddCounts : Obligations.ParityChannelsReportOddCounts := by
  intro buf
  obtain ⟨minute, hour, date⟩ := parityMask_bits buf
  rw [minute, hour, date, errMinute_eq_oddOnes, errHour_eq_oddOnes, errDate_eq_oddOnes]
  exact ⟨beq_iff_eq, beq_iff_eq, beq_iff_eq⟩

/-! ### One flipped slot -/

theorem getLsbD_flip {i : Nat} (hi : i < 64) (buf : Frame) (j : Nat) :
    (buf ^^^ (1#64 <<< i)).getLsbD j = (buf.getLsbD j).xor (decide (j = i)) := by
  have one : (1#64 <<< i).getLsbD j = decide (j = i) := by
    rw [← BitVec.twoPow_eq, BitVec.getLsbD_twoPow, decide_eq_true hi, Bool.true_and, decide_eq_decide]
    exact eq_comm
  rw [BitVec.getLsbD_xor, one]

/-- A flipped slot changes the parity of the runs of slots that hold it, and of no other. -/
theorem oddOnes_flip {i : Nat} (hi : i < 64) (buf : Frame) (off n : Nat) :
    oddOnes (buf ^^^ (1#64 <<< i)) off n = (oddOnes buf off n).xor (decide (off ≤ i ∧ i < off + n)) := by
  induction n with
  | zero =>
    have outside : ¬(off ≤ i ∧ i < off + 0) := by omega
    rw [decide_eq_false outside, Bool.xor_false]
    rfl
  | succ n ih =>
    have step : decide (off ≤ i ∧ i < off + (n + 1)) = (decide (off ≤ i ∧ i < off + n)).xor (decide (off + n = i)) := by
      by_cases last : off + n = i
      · subst last
        simp
      · rw [decide_eq_false last, Bool.xor_false, decide_eq_decide]
        omega
    rw [oddOnes_succ, oddOnes_succ, ih, getLsbD_flip hi, step]
    simp only [Bool.xor_assoc, Bool.xor_left_comm]

/-- The mask with the bit of slot `i`'s parity group set; 0 for a slot in no group (R93). -/
def groupBit (i : Nat) : BitVec 3 :=
  BitVec.ofBool (decide (36 ≤ i ∧ i < 36 + 23)) ++
    (BitVec.ofBool (decide (29 ≤ i ∧ i < 29 + 7)) ++ BitVec.ofBool (decide (21 ≤ i ∧ i < 21 + 8)))

theorem parityMask_flip {i : Nat} (hi : i < 64) (buf : Frame) :
    parityMask (buf ^^^ (1#64 <<< i)) = parityMask buf ^^^ groupBit i := by
  simp only [parityMask, errMinute_eq_oddOnes, errHour_eq_oddOnes, errDate_eq_oddOnes, oddOnes_flip hi]
  rw [groupBit, BitVec.xor_append, BitVec.xor_append, BitVec.ofBool_xor_ofBool, BitVec.ofBool_xor_ofBool,
    BitVec.ofBool_xor_ofBool]

/-- The three groups are disjoint, so each slot sets one bit at most. -/
theorem groupBit_eq (i : Nat) :
    groupBit i = if 21 ≤ i ∧ i ≤ 28 then 1#3 else if 29 ≤ i ∧ i ≤ 35 then 2#3 else if 36 ≤ i ∧ i ≤ 58 then 4#3 else 0#3 := by
  unfold groupBit
  split_ifs with minute hour date
  · rw [decide_eq_true (by omega : 21 ≤ i ∧ i < 21 + 8), decide_eq_false (by omega), decide_eq_false (by omega)]
    rfl
  · rw [decide_eq_true (by omega : 29 ≤ i ∧ i < 29 + 7), decide_eq_false (by omega), decide_eq_false (by omega)]
    rfl
  · rw [decide_eq_true (by omega : 36 ≤ i ∧ i < 36 + 23), decide_eq_false (by omega), decide_eq_false (by omega)]
    rfl
  · rw [decide_eq_false (by omega), decide_eq_false (by omega), decide_eq_false (by omega)]
    rfl

/-- Settles O34: a flip is a flip of the parity of its own group. -/
theorem oneFlippedSlotFlipsItsGroupsBit : Obligations.OneFlippedSlotFlipsItsGroupsBit := by
  intro buf i hi
  rw [← groupBit_eq]
  exact parityMask_flip hi buf

/-! ### The BCD requests -/

/-- The words that match a row of format B (R56) are those that decode to its request with the low byte as operand. -/
theorem matchesFormatB_iff_decode {w : ReqWord} {op : BitVec 4} {i : Instr}
    (row : encode i = formatB op (w.extractLsb' 0 8)) : w &&& 0xFFFFFFF00#36 = formatZ op ↔ decode w = .ok i := by
  constructor
  · intro fixedBits
    have spells : w = encode i := (eq_formatB_of_mask fixedBits).trans row.symm
    exact spells ▸ decode_encode i
  · intro decodes
    have spells : w = formatB op (w.extractLsb' 0 8) := (eq_encode_of_decode_ok decodes).trans row
    rw [spells]
    exact TableBits.high_and_sbz_bits op _

/-- Settles O35: the response and the frame are those of `exec_eq`. -/
theorem b2dConvertsEveryCode : Obligations.B2dConvertsEveryCode :=
  ⟨fun _ => matchesFormatB_iff_decode (op := 0x5#4) rfl, fun v => exec_eq (.b2d v)⟩

/-- Settles O36: the response and the frame are those of `exec_eq`. -/
theorem d2bConvertsEveryNumber : Obligations.D2bConvertsEveryNumber :=
  ⟨fun _ => matchesFormatB_iff_decode (op := 0x6#4) rfl, fun v => exec_eq (.d2b v)⟩

/-- A units digit below 10 is enough for the way to decimal and back: the tens nibble may be above 9. -/
theorem decToBcd_bcdToDec {v : BitVec 8} (units : v.toNat % 16 ≤ 9) :
    decToBcd (BitVec.ofNat 8 (bcdToDec v)) = v.toNat := by
  have value : bcdToDec v = v.toNat / 16 * 10 + v.toNat % 16 := rfl
  rw [decToBcd, BitVec.toNat_ofNat, Nat.mod_eq_of_lt (by omega), value]
  omega

/-- A number of two decimal digits survives the conversion to its code and back. -/
theorem bcdToDec_decToBcd {d : BitVec 8} (h : d.toNat ≤ 99) : bcdToDec (BitVec.ofNat 8 (decToBcd d)) = d.toNat := by
  rw [bcdToDec, decToBcd, BitVec.toNat_ofNat]
  omega

/-- Settles O37: the two round trips, and the code 0x1A, whose units nibble is no digit. -/
theorem bcdConversionsRoundTrip : Obligations.BcdConversionsRoundTrip :=
  ⟨fun _ _ => decToBcd_bcdToDec, fun _ => bcdToDec_decToBcd, by decide⟩

end Sys2Proof.Proofs

/-! The family 43_timestamp_builder.md: the offsets between the three timestamps (R102, R103), what reaches them (R104), and
what every step keeps of them (R76, R103). -/

namespace Sys2Proof.Proofs

open Sys2Proof.Machine Sys2Proof.Safety Sys2Proof.Laws

/-! ### What every step keeps of the timestamps -/

/-- Step 3c clears all three timestamps at slot 1, and no other step of 3a to 3h writes any. -/
theorem collectBit_keeps_timestampsConsistent {r : Regs} (h : timestampsConsistent r) :
    timestampsConsistent (collectBit r) := by
  rw [timestampsConsistent, collectBit_localTs, collectBit_regionalTs, collectBit_utcTs]
  by_cases slot : (bitSlot r).toNat = 1
  · exact .inl ⟨if_pos slot, if_pos slot, if_pos slot⟩
  · simpa only [if_neg slot] using h

/-- The builder's own timestamps stand in its offsets (R103). -/
theorem buildWith_timestampsConsistent (mt : Config.MakeTime) (r : Regs) : timestampsConsistent (buildWith mt r) := by
  right
  refine ⟨buildWith_local_sub_regional mt r, ?_⟩
  rw [buildWith_local_sub_utc]
  cases r.flags.getLsbD 2
  · exact .inl rfl
  · exact .inr rfl

/-- Step 3i leaves the timestamps alone or builds them anew: neither the decoder nor the publication writes any. -/
theorem decodeTrigger_keeps_timestampsConsistent {r : Regs} (h : timestampsConsistent r) :
    timestampsConsistent (decodeTrigger r) := by
  rcases decodeTrigger_cases r with ⟨-, unchanged⟩ | ⟨-, -, decoded⟩ | ⟨-, -, published⟩
  · rwa [unchanged]
  · rw [decoded]
    exact h
  · rw [published]
    exact buildWith_timestampsConsistent Config.makeTime (decodeFrame r)

theorem pollRegs_keeps_timestampsConsistent {r : Regs} (h : timestampsConsistent r) :
    timestampsConsistent (pollRegs r) := by
  rcases pollRegs_cases r with ⟨-, marker⟩ | ⟨-, -, skipped⟩ | ⟨-, accepted⟩
  · rw [marker]
    exact h
  · rw [skipped]
    exact h
  · rw [accepted]
    exact decodeTrigger_keeps_timestampsConsistent (collectBit_keeps_timestampsConsistent h)

/-- Of the requests only POLL writes a timestamp (R36). -/
theorem regsAfter_keeps_timestampsConsistent (i : Instr) {r : Regs} (h : timestampsConsistent r) :
    timestampsConsistent (regsAfter i r) := by
  cases i with
  | poll => exact pollRegs_keeps_timestampsConsistent h
  | _ => exact h

/-- Settles O46: the timestamps are clear at reset, and every request keeps their relation. -/
theorem everyStepKeepsTheTimestampsConsistent : Obligations.EveryStepKeepsTheTimestampsConsistent := by
  intro s s' h hs
  exact step_keeps timestampsConsistent (by decide) (fun i _ => regsAfter_keeps_timestampsConsistent i) hs h

/-! ### The offsets of the builder -/

theorem utcOffset_toNat (flags : BitVec 5) : (utcOffset flags).toNat = if flags.getLsbD 2 then 7200 else 3600 := by
  unfold utcOffset flagZ1
  split <;> rfl

/-- The offset adder wraps for a time below the offset (R103). -/
theorem epoch_sub_wraps {t d : Epoch} (h : t.toNat < d.toNat) : (t - d).toNat = t.toNat + 2 ^ 32 - d.toNat := by
  rw [ms_sub_toNat]
  exact Nat.mod_eq_of_lt (by omega)

/-- Settles O38: the two differences hold modulo 2^32, and a local time before an offset wraps. -/
theorem timestampsStandInTheirOffsets : Obligations.TimestampsStandInTheirOffsets := by
  intro mt r
  refine ⟨buildWith_local_sub_regional mt r, buildWith_local_sub_utc mt r, ?_, ?_⟩
  · intro early
    exact epoch_sub_wraps early
  · intro early z1
    have offset : (utcOffset r.flags).toNat = 7200 := by rw [utcOffset_toNat, if_pos z1]
    rw [buildWith_utcTs, epoch_sub_wraps (offset ▸ early), offset]
    rfl

/-! ### Real dates -/

theorem daysToYear_mono : Monotone daysToYear :=
  monotone_nat_of_le_succ fun n => Nat.le_add_right (daysToYear n) _

/-- The year argument counts from 2000: its sum does not wrap (R101). -/
theorem yearArg_ge (v : BitVec 8) : 30 ≤ (yearArg v).toNat := by
  have value : bcdToDec v = v.toNat / 16 * 10 + v.toNat % 16 := rfl
  have offset : Config.yearOffset = 30 := rfl
  rw [yearArg, BitVec.toNat_ofNat, value, offset]
  omega

/-- The days from 1970 to 2000 bound every later instant from below (R103). -/
theorem civilSeconds_ge {sec min hour day month years : BitVec 8} (h : 30 ≤ years.toNat) :
    946684800 ≤ civilSeconds sec min hour day month years := by
  have days : daysToYear 30 ≤ daysToYear years.toNat := daysToYear_mono h
  have to2000 : daysToYear 30 = 10957 := by decide
  unfold civilSeconds
  omega

/-- Settles O39: the local time is 2000-01-01 or later, so neither offset exceeds it. The bound on the year is not needed. -/
theorem realDatesDoNotWrap : Obligations.RealDatesDoNotWrap := by
  intro mt r civil _ instant
  have since2000 : 946684800 ≤ (localTime mt r).toNat := by
    rw [localTime, civil _ _ _ _ _ _ instant]
    exact civilSeconds_ge (yearArg_ge r.yearBcd)
  refine ⟨since2000, ?_, ?_⟩
  · exact BitVec.toNat_sub_of_le (BitVec.le_def.2 (le_trans (by decide) since2000))
  · have offset : (utcOffset r.flags).toNat ≤ (localTime mt r).toNat := by
      rw [utcOffset_toNat]
      split <;> omega
    rw [buildWith_utcTs, BitVec.toNat_sub_of_le (BitVec.le_def.2 offset), utcOffset_toNat]
    rfl

/-! ### What reaches the timestamps -/

theorem localTime_congr (mt : Config.MakeTime) {r r' : Regs} (min : r.minBcd = r'.minBcd) (hour : r.hourBcd = r'.hourBcd)
    (day : r.dayBcd = r'.dayBcd) (month : r.monthBcd = r'.monthBcd) (year : r.yearBcd = r'.yearBcd) :
    localTime mt r = localTime mt r' := by
  rw [localTime, localTime, min, hour, day, month, year]

theorem utcOffset_congr {flags flags' : BitVec 5} (z1 : flags.getLsbD 2 = flags'.getLsbD 2) :
    utcOffset flags = utcOffset flags' := by
  rw [utcOffset, utcOffset, flagZ1, flagZ1, z1]

/-- Settles O40: the fields reach the timestamps through the local time, and the flags through the UTC offset. -/
theorem onlyFieldsAndZ1ReachTheTimestamps : Obligations.OnlyFieldsAndZ1ReachTheTimestamps := by
  intro mt r r' min hour day month year z1
  have sameLocal := localTime_congr mt min hour day month year
  refine ⟨sameLocal, ?_, ?_⟩
  · rw [buildWith_regionalTs, buildWith_regionalTs, sameLocal]
  · rw [buildWith_utcTs, buildWith_utcTs, sameLocal, utcOffset_congr z1]

end Sys2Proof.Proofs

/-! The family 44_host_access.md: READ and NOP in full (R106 to R108). -/

namespace Sys2Proof.Proofs

open Sys2Proof.Machine Sys2Proof.Laws

/-! ### The register map -/

theorem exec_read_of_readMap_eq_some {index : BitVec 8} {s : State} {data : BitVec 32}
    (mapped : readMap s.regs index = some data) :
    exec (.read index) s = .next { s with response := some ⟨true, data⟩ } := by
  rw [exec_eq, responseTo, mapped]
  rfl

theorem readMap_of_reserved {index : BitVec 8} (reserved : 0x12 < index.toNat) (r : Regs) : readMap r index = none := by
  rw [← Option.not_isSome_iff_eq_none, readMap_isSome, decide_eq_true_iff]
  exact Nat.not_le_of_lt reserved

theorem exec_read_of_reserved {index : BitVec 8} (reserved : 0x12 < index.toNat) (s : State) :
    exec (.read index) s = .next { s with response := some ⟨false, 0#32⟩ } := by
  rw [exec_eq, responseTo, readMap_of_reserved reserved]
  rfl

theorem readMap_bufLo (r : Regs) : readMap r 0x01#8 = some (BitVec.ofNat 32 (r.buf.toNat % 2 ^ 32)) := by
  have low : r.buf.extractLsb' 0 32 = BitVec.ofNat 32 (r.buf.toNat % 2 ^ 32) := by
    apply BitVec.eq_of_toNat_eq
    rw [BitVec.extractLsb'_toNat, Nat.shiftRight_zero, BitVec.toNat_ofNat, Nat.mod_mod]
  exact congrArg some low

theorem readMap_bufHi (r : Regs) : readMap r 0x02#8 = some (BitVec.ofNat 32 (r.buf.toNat / 2 ^ 32)) := by
  have high : r.buf.extractLsb' 32 32 = BitVec.ofNat 32 (r.buf.toNat / 2 ^ 32) := by
    rw [BitVec.extractLsb', Nat.shiftRight_eq_div_pow]
  exact congrArg some high

/-- `STATUS` weighs its four bits in the order `TP`, `SYNC`, `IND`, `IND_OUT` (R106). -/
theorem statusOf_zeroExtend (r : Regs) :
    (statusOf r).zeroExtend 32 =
      BitVec.ofNat 32 (r.tp.toNat + 2 * r.sync.toNat + 4 * r.ind.toNat + 8 * r.indOut.toNat) := by
  rw [statusOf]
  generalize r.tp = tp, r.sync = sync, r.ind = ind, r.indOut = indOut
  revert tp sync ind indOut
  decide

/-! ### The two requests -/

/-- Settles O41: an entry of the map answers with `ok` set and a reserved number without; the halves of `BUF` and `STATUS`
are the only entries that are not a register as it stands. -/
theorem readReturnsTheRegisterMap : Obligations.ReadReturnsTheRegisterMap := by
  refine ⟨fun _ => matchesFormatB_iff_decode (op := 0x4#4) rfl, fun s => ?_⟩
  have entry (index : BitVec 8) (data : BitVec 32) (mapped : readMap s.regs index = some data) :=
    exec_read_of_readMap_eq_some mapped
  exact ⟨entry 0x00#8 _ rfl, entry 0x01#8 _ (readMap_bufLo s.regs), entry 0x02#8 _ (readMap_bufHi s.regs),
    entry 0x03#8 _ rfl, entry 0x04#8 _ rfl, entry 0x05#8 _ rfl, entry 0x06#8 _ rfl,
    entry 0x07#8 _ (congrArg some (statusOf_zeroExtend s.regs)), entry 0x08#8 _ rfl, entry 0x09#8 _ rfl, entry 0x0A#8 _ rfl,
    entry 0x0B#8 _ rfl, entry 0x0C#8 _ rfl, entry 0x0D#8 _ rfl, entry 0x0E#8 _ rfl, entry 0x0F#8 _ rfl,
    entry 0x10#8 _ rfl, entry 0x11#8 _ rfl, entry 0x12#8 _ rfl, fun _ reserved => exec_read_of_reserved reserved s⟩

/-- Settles O42: the word of NOP is all zero, and by `eq_encode_of_decode_ok` no other word spells NOP; the response and the
frame are those of `exec_eq`. -/
theorem nopIsTheAllZeroWordAndWritesNothing : Obligations.NopIsTheAllZeroWordAndWritesNothing := by
  have word : encode .nop = 0x000000000#36 := by decide
  refine ⟨fun w => ⟨fun decodes => (eq_encode_of_decode_ok decodes).trans word, fun zero => ?_⟩, exec_eq .nop⟩
  rw [zero, ← word]
  exact decode_encode .nop

end Sys2Proof.Proofs

/-! The family 60_exceptions.md: the error response (R111), that no step stops (R110), and the data of POLL as the only sign
of an available minute (R117). -/

namespace Sys2Proof.Proofs

open Sys2Proof.Machine Sys2Proof.Laws

/-! ### The error response -/

/-- Of the requests only a READ of a reserved number is answered with `ok` = 0 (R107, R111). -/
theorem responseTo_ok_eq_false_iff (i : Instr) (r : Regs) :
    (responseTo i r).ok = false ↔ ∃ index, i = .read index ∧ 0x12 < index.toNat := by
  cases i with
  | read index => simp [responseTo, readMap_isSome]
  | _ => simp [responseTo]

/-- The words answered with `ok` = 0, by the three reasons of R111. -/
theorem responseToWord_ok_eq_false_iff (w : ReqWord) (r : Regs) :
    (responseToWord w r).ok = false ↔
      decode w = .error .illegalWord ∨ decode w = .error .nonzeroSbz ∨
        ∃ index, decode w = .ok (.read index) ∧ 0x12 < index.toNat := by
  have answers := decode_answers w
  unfold responseToWord
  generalize decode w = answer at answers ⊢
  cases answers with
  | request i spells => simp [responseTo_ok_eq_false_iff]
  | nonzeroSbz nonzero => simp
  | illegalWord reserved => simp

/-- A word answered with `ok` = 0 carries no data and writes no register, whatever the reason (R111). -/
theorem refused_word_writes_nothing {w : ReqWord} {r : Regs} (refused : (responseToWord w r).ok = false) :
    (responseToWord w r).data = 0#32 ∧ regsAfterWord w r = r := by
  unfold responseToWord regsAfterWord at *
  cases hw : decode w with
  | error e => exact ⟨rfl, rfl⟩
  | ok i =>
    rw [hw] at refused
    obtain ⟨index, rfl, reserved⟩ := (responseTo_ok_eq_false_iff i r).1 refused
    have unmapped : (responseTo (.read index) r).data = 0#32 := congrArg (·.getD 0#32) (readMap_of_reserved reserved r)
    exact ⟨unmapped, rfl⟩

/-- Settles O9: every word is performed by `perform_eq`, and its response is an error for the three reasons alone. -/
theorem errorResponsesAreExactlyTheThreeReasons : Obligations.ErrorResponsesAreExactlyTheThreeReasons :=
  ⟨rfl, rfl, rfl, fun w s =>
    ⟨_, _, perform_eq w s, rfl, responseToWord_ok_eq_false_iff w s.regs, refused_word_writes_nothing⟩⟩

/-! ### No step stops -/

/-- Settles O10: the port hands over a word, which is answered, or the RESET that is presented. -/
theorem noStepStopsAndEveryRequestIsAnswered : Obligations.NoStepStopsAndEveryRequestIsAnswered := by
  intro s
  rcases takeInput_cases s with ⟨w, ins, n, word⟩ | ⟨rest, presented, reset⟩
  · exact ⟨_, (step_of_takeInput_word word).trans (perform_eq w _), fun _ => ⟨_, rfl⟩⟩
  · have stepped : step s = .next (resetBlock { s with inputs := rest }) := by rw [step, reset]
    exact ⟨_, stepped, fun noReset => absurd presented (noReset rest)⟩

/-! ### The data of POLL -/

/-- The marker is its own response data, so it shows as nonzero exactly when step 1 fires (R71). -/
theorem pollData_ne_zero_iff (r : Regs) : pollData r ≠ 0#32 ↔ r.som ≠ 0#32 ∧ r.tp = true := by
  rw [pollData_eq]
  split
  next fires => exact iff_of_true fires.1 fires
  next quiet => exact iff_of_false (fun nonzero => nonzero rfl) quiet

/-- Settles O29: POLL answers `pollData`. -/
theorem nonzeroPollDataIsTheOnlyAvailability : Obligations.NonzeroPollDataIsTheOnlyAvailability :=
  fun s => ⟨_, _, exec_eq .poll s, rfl, pollData_ne_zero_iff s.regs⟩

end Sys2Proof.Proofs

/-! The family 70_reset_and_hazards.md: RESET and the invariants at reset (R123), a missed POLL (R128), and when the results
may change (R130). -/

namespace Sys2Proof.Proofs

open Sys2Proof.Machine Sys2Proof.Safety Sys2Proof.Laws

/-! ### RESET -/

theorem step_of_reset {s : State} {rest : List Moment} (h : s.inputs = .reset :: rest) :
    step s = .next (resetBlock { s with inputs := rest }) := by
  rw [step, takeInput_reset s rest h]

/-- Settles O11: the step is RESET on what stays presented, and the reset state is written out register by register. -/
theorem resetZeroesEveryRegister : Obligations.ResetZeroesEveryRegister :=
  ⟨fun _ _ presented => ⟨_, step_of_reset presented, rfl, rfl, rfl⟩,
    rfl, rfl, rfl, rfl, rfl, rfl, rfl, rfl, rfl, rfl, rfl, rfl, rfl, rfl, rfl, rfl, rfl, rfl, rfl, rfl, rfl⟩

/-- Settles O43: the counter, the buffer and `SYNC` are 0, and the timestamps are all clear. -/
theorem resetMeetsTheInvariants : Obligations.ResetMeetsTheInvariants :=
  ⟨⟨Nat.zero_le 62, rfl⟩, fun _ => rfl, .inl ⟨rfl, rfl, rfl⟩⟩

/-! ### A missed POLL -/

/-- EDGE_OFF leaves the waiting pulse to be accepted (R128). -/
theorem sampleOff_accepts {r : Regs} (tp : r.tp = false) (low : 100 ≤ r.thisBit.toNat) (high : r.thisBit.toNat < 220)
    (now : Ms) : acceptsBit (sampleOff now r) :=
  ⟨by simp [tp], low, high⟩

/-- Settles O31: the gap sets the marker, so the POLL restarts the frame with the waiting bit and records the newer start. -/
theorem aMissedPollResynchronisesSpuriously : Obligations.AMissedPollResynchronisesSpuriously := by
  intro s now tp low high gap nonzero
  have marker : (sampleOff now s.regs).som = now := if_pos (decide_eq_true gap)
  have accepts := sampleOff_accepts tp low high now
  obtain ⟨ctr, buf⟩ := pollRegs_restarts accepts (marker.trans_ne nonzero)
  obtain ⟨-, start, -⟩ := accept_poll_writes _ accepts
  exact ⟨_, _, exec_eq (.edgeOff now) s, marker, exec_eq .poll _, ctr, buf, start⟩

/-! ### When the results change -/

/-- A relation that every request establishes between the registers before and after it holds across every step but a
RESET. -/
theorem step_reset_or (R : Regs → Regs → Prop) (request : ∀ i r, R r (regsAfter i r)) {s s' : State}
    (hs : step s = .next s') : s'.regs = Regs.reset ∨ R s.regs s'.regs := by
  obtain ⟨t, ht, c⟩ := step_cases s
  rw [hs] at ht
  cases ht
  rcases c with ⟨w, word, -⟩ | ⟨reset, -⟩
  · right
    rw [word, regsAfterWord]
    cases decode w with
    | ok i => exact request i s.regs
    | error e => exact request .nop s.regs
  · exact .inl reset

/-- The results are as before, or the bit of slot 1 has cleared them, or a frame has been decoded (R76, R82). -/
abbrev ResultsMayChange (r r' : Regs) : Prop :=
  sameResults r r' ∨ (acceptsBit r ∧ nextSlot r = 1 ∧ ResultsClear r') ∨
    (acceptsBit r ∧ nextSlot r = 58 ∧ r.sync = true)

/-- A POLL that accepts no bit leaves the results alone. -/
theorem pollRegs_sameResults {r : Regs} (h : ¬acceptsBit r) : sameResults r (pollRegs r) := by
  rcases not_accept_cases r h with ⟨-, marker⟩ | ⟨-, skipped⟩
  · rw [marker]
    exact ⟨rfl, rfl, rfl, rfl⟩
  · rw [skipped]
    exact ⟨rfl, rfl, rfl, rfl⟩

/-- An accepted bit touches the results in slot 1, or where step 3i decodes. -/
theorem accept_resultsMayChange {r : Regs} (accepts : acceptsBit r) : ResultsMayChange r (pollRegs r) := by
  by_cases decodes : nextSlot r = 58 ∧ r.sync = true
  · exact .inr (.inr ⟨accepts, decodes⟩)
  · rw [pollRegs_of_collects accepts decodes]
    by_cases slot : nextSlot r = 1
    · exact .inr (.inl ⟨accepts, slot, accept_clears r accepts slot⟩)
    · exact .inl (accept_sameResults r accepts slot)

/-- Of the requests only POLL writes a result (R36). -/
theorem regsAfter_resultsMayChange (i : Instr) (r : Regs) : ResultsMayChange r (regsAfter i r) := by
  cases i with
  | poll =>
    by_cases accepts : acceptsBit r
    · exact accept_resultsMayChange accepts
    · exact .inl (pollRegs_sameResults accepts)
  | _ => exact .inl ⟨rfl, rfl, rfl, rfl⟩

/-- Settles O49: a step is a RESET or performs a word, and no request goes outside `ResultsMayChange`. -/
theorem resultsChangeOnlyAtSlotOneDecodeOrReset : Obligations.ResultsChangeOnlyAtSlotOneDecodeOrReset := by
  intro s s' hs
  rcases step_reset_or ResultsMayChange regsAfter_resultsMayChange hs with reset | same | change
  · exact .inr (.inl reset)
  · exact .inl same
  · exact .inr (.inr change)

end Sys2Proof.Proofs

/-! The idle request port (44_host_access.md section 2, R108). -/

namespace Sys2Proof.Proofs

open Sys2Proof.Machine Sys2Proof.Laws

/-- The idle word is the encoding of NOP (R108). -/
theorem decode_idleWord : decode idleWord = .ok .nop := decode_encode .nop

/-- Settles O6: the idle port hands over the idle word with the state unchanged, and that word spells NOP. -/
theorem idlePortPerformsNop : Obligations.IdlePortPerformsNop := by
  intro s idle
  calc step s = perform idleWord s := step_of_takeInput_word (takeInput_idle s idle)
    _ = exec .nop s := perform_of_decode_ok decode_idleWord s

end Sys2Proof.Proofs
